-- ==== Sys2Proof/Word.lean ====
section
/-!
DEFINITION. Word.lean: the words of the block and the address of a word on its port
(spec/00_scope.md R8, R10; spec/20_memory.md R60).
-/

namespace Sys2Proof

/-- A word: 32 bits, the width `W` of every data word, register and bus datum (R8, R10). Read as data it is the
signed number `BitVec.toInt` gives (R10, R120). -/
abbrev Word := BitVec 32

/-- A 10-bit word address on the port, the byte offset divided by 4 (R60). A misaligned or narrower access cannot be
expressed (R69). -/
abbrev WordAddr := BitVec 10

/-- The byte offset inside the window that a word address stands for (R60). -/
def WordAddr.offset (a : WordAddr) : Nat := 4 * a.toNat

end Sys2Proof
end

