-- ==== Sys2Proof/Config.lean ====
section
/-!
DEFINITION. Config.lean: the parameters of the block and the fixed numbers of the register window
(spec/00_scope.md R8; spec/10_state.md R30; spec/20_memory.md R62).

Two parameters are OPEN (R8, decisions D10 and D21): the number `NCH` of channel contexts and the prototype table
`PROTO`. Both travel in `Machine.State` (the length of `channels`, the field `proto`), so that a statement about every
state is a statement about every block. What stands here is what `Machine.State.reset` takes for them.
-/

namespace Sys2Proof.Config

/-- The prototype filter table of this implementation (R47, R129): 640 coefficients whose values the spec leaves
OPEN, so this constant has no body and nothing can be proved of its values. -/
opaque proto : Vector Word 640

/-- The reference value of the OPEN parameter `NCH` (R8, decision D21). `State.reset` is the reset of a block of this
many contexts; `State.resetWith` is the reset of any block. -/
def referenceNch : Nat := 2

/-- The largest `NCH` (R8): the `CH` field has four bits. -/
def maxNch : Nat := 16

/-- The identification value (R31, decision D31). -/
def idValue : Word := 0x514D4607#32

/-- Byte offset of the register `ID` (R30). -/
def offId : Nat := 0x000
/-- Byte offset of the register `CFG` (R30). -/
def offCfg : Nat := 0x004
/-- Byte offset of the register `STATUS` (R30). -/
def offStatus : Nat := 0x008
/-- Byte offset of the register `CMD` (R30). -/
def offCmd : Nat := 0x00C
/-- Byte offset of the register `FAULTCMD` (R30). -/
def offFaultCmd : Nat := 0x010
/-- Byte offset of the register `CTXVALID` (R30). -/
def offCtxValid : Nat := 0x014
/-- Byte offset of the register `CTXMODE` (R30). -/
def offCtxMode : Nat := 0x018
/-- Byte offset of the register `VIDX` (R30). -/
def offVidx : Nat := 0x01C
/-- Byte offset of `XRE[0]` (R62). -/
def offXre : Nat := 0x400
/-- Byte offset of `XIM[0]` (R62). -/
def offXim : Nat := 0x500
/-- Byte offset of `YRE[0]` (R62). -/
def offYre : Nat := 0x600
/-- Byte offset of `YIM[0]` (R62). -/
def offYim : Nat := 0x700

end Sys2Proof.Config
end

