-- ==== Sys2Proof/Syntax.lean ====
section
/-!
DEFINITION. Syntax.lean: the commands of the block (spec/30_encoding.md R90 to R97), the quality modes
(spec/00_scope.md R9), the transform sizes (R8), the fault causes (spec/60_exceptions.md R271) and the host's bus
transactions (spec/20_memory.md R60, spec/70_reset_and_hazards.md R310).
-/

namespace Sys2Proof

/-- The two quality modes (R9): `HQ`, mode value 0, and `LP`, mode value 1. -/
inductive Mode where
  | hq
  | lp
deriving DecidableEq, Repr

/-- The legal transform sizes 16, 32 and 64 (R8). -/
inductive Size where
  | n16
  | n32
  | n64
deriving DecidableEq, Repr

/-- The number of points `N` of a size. -/
def Size.points : Size → Nat
  | .n16 => 16
  | .n32 => 32
  | .n64 => 64

/-- `b = log2 N`, the number of stages of the FFT (R153) and the width of its bit reversal (R154). -/
def Size.bits : Size → Nat
  | .n16 => 4
  | .n32 => 5
  | .n64 => 6

/-- The six fault causes (R271). -/
inductive Cause where
  /-- `E_OPC`, code 1: the operation code is 7, 12, 13, 14 or 15. -/
  | opc
  /-- `E_ENC`, code 2: a bit that the format requires to be 0 is 1. -/
  | enc
  /-- `E_SIZE`, code 3: a transform command whose `N` is not 16, 32 or 64. -/
  | size
  /-- `E_CHAN`, code 4: `CH` is not below `NCH`. -/
  | chan
  /-- `E_ARG`, code 5: `QMFA` with `ARG` above 32, `QMFS` with `ARG` above 64. -/
  | arg
  /-- `E_UNINIT`, code 6: a slot command on a context that has not been constructed. -/
  | uninit
deriving DecidableEq, Repr

/-- The eleven commands (R92), one constructor for each row of `spec/opcode_table.json`. A field holds the bits its
format gives it, at every value the encoding admits (R97): `n` is the field `N`, `ch` the field `CH`, `kx` and `nb` the
field `ARG`, `mode` the bit `m` of format I. The ranges of R91 steps 4 to 7 are checked when the command runs. -/
inductive Instr where
  | nop
  | fft (n : BitVec 8)
  | dct2 (n : BitVec 8)
  | dct3 (n : BitVec 8)
  | dct4 (n : BitVec 8)
  | dst2 (n : BitVec 8)
  | dst4 (n : BitVec 8)
  | ainit (ch : BitVec 4) (mode : Mode)
  | qmfa (ch : BitVec 4) (kx : BitVec 8)
  | sinit (ch : BitVec 4) (mode : Mode)
  | qmfs (ch : BitVec 4) (nb : BitVec 8)
deriving DecidableEq, Repr

/-- What the host does at the block's pins (R14, R60, R310): a bus read, a bus write, or one pulse of the reset
input. -/
inductive HostEvent where
  /-- `BusRead`, at a word address. -/
  | read (addr : WordAddr)
  /-- `BusWrite` of a word, at a word address. -/
  | write (addr : WordAddr) (data : Word)
  /-- `rst` asserted and released. -/
  | reset
deriving DecidableEq, Repr

end Sys2Proof
end

