-- ==== Sys2Proof/Decode.lean ====
section
/-!
DEFINITION. Decode.lean: the decoder and the encoder of the command word (spec/30_encoding.md R90 to R98).

`decode` is the part of R91 that looks at the word alone and does not need the field ranges: it selects the row of
`spec/opcode_table.json` and answers `E_OPC` or `E_ENC` where no row matches (R98). The later checks of R91 (`E_SIZE`,
`E_CHAN`, `E_ARG`, `E_UNINIT`) are made by the meanings.
-/

namespace Sys2Proof

/-- `OPC`, bits 3:0 (R90). -/
def fieldOpc (w : Word) : BitVec 4 := w.extractLsb' 0 4
/-- `CH`, bits 7:4 (R90). -/
def fieldCh (w : Word) : BitVec 4 := w.extractLsb' 4 4
/-- `N`, bits 15:8 (R90). -/
def fieldN (w : Word) : BitVec 8 := w.extractLsb' 8 8
/-- `ARG`, bits 23:16 (R90). -/
def fieldArg (w : Word) : BitVec 8 := w.extractLsb' 16 8
/-- The reserved bits 31:24 (R90). -/
def fieldReserved (w : Word) : BitVec 8 := w.extractLsb' 24 8

/-- Operation codes 7, 12, 13, 14 and 15 are reserved (R92). -/
def opcReserved (opc : BitVec 4) : Bool :=
  opc == 7#4 || opc == 12#4 || opc == 13#4 || opc == 14#4 || opc == 15#4

/-- The mode value of R9. -/
def Mode.ofBit (b : Bool) : Mode := if b then .lp else .hq

/-- The mode value of R9: 0 for HQ, 1 for LP. -/
def Mode.toBit : Mode → Bool
  | .hq => false
  | .lp => true

/-- Format T (R93; R91 step 4): `CH` and `ARG` are 0. -/
def decodeT (w : Word) (mk : BitVec 8 → Instr) : Except Cause Instr :=
  if fieldCh w ≠ 0#4 ∨ fieldArg w ≠ 0#8 then .error .enc else .ok (mk (fieldN w))

/-- Format I (R95; R91 step 5): `N` and bits 7:1 of `ARG` are 0, bit 0 of `ARG` is the mode. -/
def decodeI (w : Word) (mk : BitVec 4 → Mode → Instr) : Except Cause Instr :=
  if fieldN w ≠ 0#8 ∨ (fieldArg w).extractLsb' 1 7 ≠ 0#7 then .error .enc
  else .ok (mk (fieldCh w) (Mode.ofBit ((fieldArg w).getLsbD 0)))

/-- Format Q (R94; R91 steps 6 and 7): `N` is 0. -/
def decodeQ (w : Word) (mk : BitVec 4 → BitVec 8 → Instr) : Except Cause Instr :=
  if fieldN w ≠ 0#8 then .error .enc else .ok (mk (fieldCh w) (fieldArg w))

/-- Format Z (R96; R91 step 3): every other bit is 0. -/
def decodeZ (w : Word) : Except Cause Instr :=
  if fieldCh w ≠ 0#4 ∨ fieldN w ≠ 0#8 ∨ fieldArg w ≠ 0#8 then .error .enc else .ok .nop

/-- The row a command word selects, or the cause of the fault where it selects none (R91 steps 1 to 7, R98). The
checks stand in R91's order: the operation code, then the reserved bits, then the bits the format fixes. -/
def decode (w : Word) : Except Cause Instr :=
  if opcReserved (fieldOpc w) then .error .opc
  else if fieldReserved w ≠ 0#8 then .error .enc
  else
    match (fieldOpc w).toNat with
    | 0 => decodeZ w
    | 1 => decodeT w .fft
    | 2 => decodeT w .dct2
    | 3 => decodeT w .dct3
    | 4 => decodeT w .dct4
    | 5 => decodeT w .dst2
    | 6 => decodeT w .dst4
    | 8 => decodeI w .ainit
    | 9 => decodeQ w .qmfa
    | 10 => decodeI w .sinit
    | 11 => decodeQ w .qmfs
    | _ => .error .opc

/-- A command word put together from its five fields (R90). -/
def packWord (reserved arg n : BitVec 8) (ch opc : BitVec 4) : Word :=
  reserved ++ arg ++ n ++ ch ++ opc

/-- The command word of a command (R93 to R96): the host's assembler (R100), and the word that a fault records
(R276). -/
def encode : Instr → Word
  | .nop => packWord 0#8 0#8 0#8 0#4 0#4
  | .fft n => packWord 0#8 0#8 n 0#4 1#4
  | .dct2 n => packWord 0#8 0#8 n 0#4 2#4
  | .dct3 n => packWord 0#8 0#8 n 0#4 3#4
  | .dct4 n => packWord 0#8 0#8 n 0#4 4#4
  | .dst2 n => packWord 0#8 0#8 n 0#4 5#4
  | .dst4 n => packWord 0#8 0#8 n 0#4 6#4
  | .ainit ch m => packWord 0#8 (0#7 ++ BitVec.ofBool m.toBit) 0#8 ch 8#4
  | .qmfa ch kx => packWord 0#8 kx 0#8 ch 9#4
  | .sinit ch m => packWord 0#8 (0#7 ++ BitVec.ofBool m.toBit) 0#8 ch 10#4
  | .qmfs ch nb => packWord 0#8 nb 0#8 ch 11#4

/-- One row of the opcode table: a word `w` selects it when `w &&& mask = pattern` (R98). -/
structure OpcodeRow where
  mnemonic : String
  mask : Word
  pattern : Word
deriving DecidableEq, Repr

/-- The masks and matches of R93 to R96, as `spec/opcode_table.json` lists them. `decode` does not use this list: that
the two agree is a statement. -/
def opcodeRows : List OpcodeRow :=
  [ ⟨"NOP", 0xFFFFFFFF#32, 0x00000000#32⟩
  , ⟨"FFT", 0xFFFF00FF#32, 0x00000001#32⟩
  , ⟨"DCT2", 0xFFFF00FF#32, 0x00000002#32⟩
  , ⟨"DCT3", 0xFFFF00FF#32, 0x00000003#32⟩
  , ⟨"DCT4", 0xFFFF00FF#32, 0x00000004#32⟩
  , ⟨"DST2", 0xFFFF00FF#32, 0x00000005#32⟩
  , ⟨"DST4", 0xFFFF00FF#32, 0x00000006#32⟩
  , ⟨"AINIT", 0xFFFEFF0F#32, 0x00000008#32⟩
  , ⟨"QMFA", 0xFF00FF0F#32, 0x00000009#32⟩
  , ⟨"SINIT", 0xFFFEFF0F#32, 0x0000000A#32⟩
  , ⟨"QMFS", 0xFF00FF0F#32, 0x0000000B#32⟩ ]

/-- The mnemonic of a command (R92). -/
def Instr.mnemonic : Instr → String
  | .nop => "NOP"
  | .fft _ => "FFT"
  | .dct2 _ => "DCT2"
  | .dct3 _ => "DCT3"
  | .dct4 _ => "DCT4"
  | .dst2 _ => "DST2"
  | .dst4 _ => "DST4"
  | .ainit _ _ => "AINIT"
  | .qmfa _ _ => "QMFA"
  | .sinit _ _ => "SINIT"
  | .qmfs _ _ => "QMFS"

/-- Whether a word selects a row of the opcode table (R98). -/
def OpcodeRow.matchesWord (r : OpcodeRow) (w : Word) : Bool := w &&& r.mask == r.pattern

/-- The command the decoder reads from a word numbered as `spec/opcode_table.json` numbers it. A command is one 32-bit
word (R90); the block has no byte order (R68), so the word is given to the decoder as it stands. -/
def decodeTableWord (nbits w : Nat) : Option Instr :=
  match decode (BitVec.ofNat 32 (w % 2 ^ nbits)) with
  | .ok i => some i
  | .error _ => none

end Sys2Proof
end

