-- ==== Sys2Proof/Machine/State.lean ====
section
/-!
DEFINITION. Machine/State.lean: the state of the block (spec/10_state.md R20 to R53), its reset (R52,
spec/70_reset_and_hazards.md R310) and the reasons a step can stop.
-/

namespace Sys2Proof.Machine

/-- The analysis context `A[c]` of one channel (R40, R41). -/
structure AnaCtx where
  /-- `A[c].H`, indexed by age: entry 0 is the newest sample. -/
  hist : Vector Word 320
  /-- `A[c].valid`: `AINIT` has constructed the context. -/
  valid : Bool
  /-- `A[c].mode`. -/
  mode : Mode
deriving DecidableEq, Repr

/-- The synthesis context `S[c]` of one channel (R43, R44). -/
structure SynCtx where
  /-- `S[c].V`: two regions of 640 words in HQ mode, one of 1280 words in LP mode, indexed by age. -/
  hist : Vector Word 1280
  /-- `S[c].valid`: `SINIT` has constructed the context. -/
  valid : Bool
  /-- `S[c].mode`. -/
  mode : Mode
  /-- `S[c].vidx`: which of the two regions the next HQ slot computes its output from (R236, R237). -/
  vidx : Fin 2
deriving DecidableEq, Repr

/-- The two contexts of one channel number `c`. They are separate: neither is valid because the other is (R271). -/
structure Channel where
  /-- `A[c]`. -/
  ana : AnaCtx
  /-- `S[c]`. -/
  syn : SynCtx
deriving DecidableEq, Repr

/-- The state of the block (R20), with the OPEN parameters it was built with and the host at its pins. -/
structure State where
  /-- `XRE[0..63]`, real parts of the operands (R21). -/
  xre : Vector Word 64
  /-- `XIM[0..63]`, imaginary parts of the operands (R21). -/
  xim : Vector Word 64
  /-- `YRE[0..63]`, real parts of the results (R22). -/
  yre : Vector Word 64
  /-- `YIM[0..63]`, imaginary parts of the results (R22). -/
  yim : Vector Word 64
  /-- `FAULT`, bit 0 of `STATUS` (R27). -/
  fault : Bool
  /-- `OVF`, bit 1 of `STATUS` (R28). -/
  ovf : Bool
  /-- `ERRCODE`, bits 7:4 of `STATUS` (R33). -/
  errcode : BitVec 4
  /-- `FAULTCMD` (R35). -/
  faultcmd : Word
  /-- The contexts `A[c]` and `S[c]`, in the order of `c`. There are exactly `NCH` of each (R40, R43), so `NCH` is the
  length of this list. -/
  channels : List Channel
  /-- `PROTO[0..639]` (R47, R129): read-only, an OPEN parameter of the implementation. -/
  proto : Vector Word 640
  /-- The model's own field: what the host does at the pins from here on, in the order it does it (R14, R60). -/
  port : List HostEvent
  /-- The model's own field: the words that the reads so far have returned to the host, the latest first (R60). -/
  replies : List Word
deriving DecidableEq, Repr

/-- `NCH`, the number of channel contexts (R8, R32). -/
def State.nch (s : State) : Nat := s.channels.length

/-- The output pin `fault_o`, which equals `FAULT` at all times (R280). -/
def State.faultOut (s : State) : Bool := s.fault

/-- The reasons the machine stops with a fault: none. The block's own faults (R271) are states of the block, taken by
`State.raiseFault`, after which it goes on answering transactions (R67, R276). No transaction can fail on the bus (R60),
no command can hang (R15), and no encoding and no access is undefined (R98, spec/93_implementation_defined.md
section 2). -/
inductive Fault : Type
deriving DecidableEq, Repr

/-- The reasons a step has no meaning in the model. -/
inductive Refusal where
  /-- Raised by an arm of `exec` whose command has no meaning yet, with its mnemonic; no arm raises it. Safe: the machine
  stops where the block goes on. -/
  | notModelled (mnemonic : String)
deriving DecidableEq, Repr

/-- What a step answers. -/
abbrev Out := Host.Outcome State Fault Refusal

/-- `A[c]` after reset (R52): not valid, mode 0. DESIGN CHOICE, unsafe (log entry 3): the history, which R52 leaves
unspecified and says cannot be observed, is 0. -/
def AnaCtx.reset : AnaCtx :=
  { hist := Vector.replicate 320 0#32, valid := false, mode := .hq }

/-- `S[c]` after reset (R52): not valid, mode 0, `vidx` 0. DESIGN CHOICE, unsafe (log entry 3): the history, which R52
leaves unspecified and says cannot be observed, is 0. -/
def SynCtx.reset : SynCtx :=
  { hist := Vector.replicate 1280 0#32, valid := false, mode := .hq, vidx := 0 }

/-- The two contexts of a channel after reset. -/
def Channel.reset : Channel := { ana := AnaCtx.reset, syn := SynCtx.reset }

/-- The state after reset (R52, R310) of a block of `nch` contexts whose prototype table is `proto`, with nothing
pending at its pins: `reset(NCH, PROTO)` of spec/INDEX.md. -/
def State.resetWith (nch : Nat) (proto : Vector Word 640) : State :=
  { xre := Vector.replicate 64 0#32
    xim := Vector.replicate 64 0#32
    yre := Vector.replicate 64 0#32
    yim := Vector.replicate 64 0#32
    fault := false
    ovf := false
    errcode := 0#4
    faultcmd := 0#32
    channels := List.replicate nch Channel.reset
    proto := proto
    port := []
    replies := [] }

/-- The state after reset of the reference block: the reference `NCH` of R8 and an uninterpreted `PROTO`.
DESIGN CHOICE, unsafe (log entry 1): the spec leaves `NCH` OPEN and names 2 as its reference value. -/
def State.reset : State := State.resetWith Config.referenceNch Config.proto

end Sys2Proof.Machine
end

