-- ==== Sys2Proof/Machine/Flags.lean ====
section
/-!
DEFINITION. Machine/Flags.lean: the overflow mark of one command and the flag `OVF` (spec/40_numerics_and_tables.md
R121, R124; spec/10_state.md R28), and the word that `STATUS` reads as (R33).
-/

namespace Sys2Proof.Machine

/-- A value, with the overflow mark of the applications of `WR` and `RND` that computed it (R124). -/
structure Marked (α : Type) where
  val : α
  mark : Bool
deriving DecidableEq, Repr

/-- Whether an exact integer lies outside `s32`, which is when `WR` sets the mark (R121). -/
def outsideS32 (v : Int) : Bool := decide (v < -2147483648) || decide (2147483647 < v)

/-- The list of `f 0` to `f (n - 1)`, marked if one of them is: the mark is an "or", whatever the order (R124). -/
def markedList (n : Nat) (f : Nat → Marked Word) : Marked (List Word) :=
  { val := (List.range n).map fun i => (f i).val
    mark := (List.range n).any fun i => (f i).mark }

/-- A command that completes: `OVF <- OVF or mark` (R28, R124). -/
def State.markOvf (s : State) (mark : Bool) : State := { s with ovf := s.ovf || mark }

/-- The host clears `OVF` (R28, R33). -/
def State.clearOvf (s : State) : State := { s with ovf := false }

/-- The word `STATUS` reads as (R33, R63): `FAULT | (OVF << 1) | (ERRCODE << 4)`. -/
def State.statusWord (s : State) : Word :=
  (BitVec.ofBool s.fault).setWidth 32 ||| (BitVec.ofBool s.ovf).setWidth 32 <<< 1 ||| s.errcode.setWidth 32 <<< 4

end Sys2Proof.Machine
end

