-- ==== Sys2Proof/Machine/Tables.lean ====
section
/-!
DEFINITION. Machine/Tables.lean: the cosine and sine tables `TWC` and `TWS` (spec/40_numerics_and_tables.md R126,
R127), eight entries a row as R127 lists them, in four pieces of eight rows.
-/

namespace Sys2Proof.Machine

/-- `TWC[0..63]` (R127). -/
def twcRows0 : List (List Int) :=
  [ [1073741824, 1073660973, 1073418433, 1073014240, 1072448455, 1071721163, 1070832474, 1069782521]
  , [1068571464, 1067199483, 1065666786, 1063973603, 1062120190, 1060106826, 1057933813, 1055601479]
  , [1053110176, 1050460278, 1047652185, 1044686319, 1041563127, 1038283080, 1034846671, 1031254418]
  , [1027506862, 1023604567, 1019548121, 1015338134, 1010975242, 1006460100, 1001793390, 996975812]
  , [992008094, 986890984, 981625251, 976211688, 970651112, 964944360, 959092290, 953095785]
  , [946955747, 940673101, 934248793, 927683790, 920979082, 914135678, 907154608, 900036924]
  , [892783698, 885396022, 877875009, 870221790, 862437520, 854523370, 846480531, 838310216]
  , [830013654, 821592095, 813046808, 804379079, 795590213, 786681534, 777654384, 768510122] ]

/-- `TWC[64..127]` (R127). -/
def twcRows1 : List (List Int) :=
  [ [759250125, 749875788, 740388522, 730789757, 721080937, 711263525, 701339000, 691308855]
  , [681174602, 670937767, 660599890, 650162530, 639627258, 628995660, 618269338, 607449906]
  , [596538995, 585538248, 574449320, 563273883, 552013618, 540670223, 529245404, 517740883]
  , [506158392, 494499676, 482766489, 470960600, 459083786, 447137835, 435124548, 423045732]
  , [410903207, 398698801, 386434353, 374111709, 361732726, 349299266, 336813204, 324276419]
  , [311690799, 299058239, 286380643, 273659918, 260897982, 248096755, 235258165, 222384147]
  , [209476638, 196537583, 183568930, 170572633, 157550647, 144504935, 131437462, 118350194]
  , [105245103, 92124163, 78989349, 65842639, 52686014, 39521455, 26350943, 13176464] ]

/-- `TWC[128..191]` (R127). -/
def twcRows2 : List (List Int) :=
  [ [0, -13176464, -26350943, -39521455, -52686014, -65842639, -78989349, -92124163]
  , [-105245103, -118350194, -131437462, -144504935, -157550647, -170572633, -183568930, -196537583]
  , [-209476638, -222384147, -235258165, -248096755, -260897982, -273659918, -286380643, -299058239]
  , [-311690799, -324276419, -336813204, -349299266, -361732726, -374111709, -386434353, -398698801]
  , [-410903207, -423045732, -435124548, -447137835, -459083786, -470960600, -482766489, -494499676]
  , [-506158392, -517740883, -529245404, -540670223, -552013618, -563273883, -574449320, -585538248]
  , [-596538995, -607449906, -618269338, -628995660, -639627258, -650162530, -660599890, -670937767]
  , [-681174602, -691308855, -701339000, -711263525, -721080937, -730789757, -740388522, -749875788] ]

/-- `TWC[192..255]` (R127). -/
def twcRows3 : List (List Int) :=
  [ [-759250125, -768510122, -777654384, -786681534, -795590213, -804379079, -813046808, -821592095]
  , [-830013654, -838310216, -846480531, -854523370, -862437520, -870221790, -877875009, -885396022]
  , [-892783698, -900036924, -907154608, -914135678, -920979082, -927683790, -934248793, -940673101]
  , [-946955747, -953095785, -959092290, -964944360, -970651112, -976211688, -981625251, -986890984]
  , [-992008094, -996975812, -1001793390, -1006460100, -1010975242, -1015338134, -1019548121, -1023604567]
  , [-1027506862, -1031254418, -1034846671, -1038283080, -1041563127, -1044686319, -1047652185, -1050460278]
  , [-1053110176, -1055601479, -1057933813, -1060106826, -1062120190, -1063973603, -1065666786, -1067199483]
  , [-1068571464, -1069782521, -1070832474, -1071721163, -1072448455, -1073014240, -1073418433, -1073660973] ]

/-- The table `TWC` (R127). -/
def twcRows : List (List Int) := twcRows0 ++ twcRows1 ++ twcRows2 ++ twcRows3

/-- `TWS[0..63]` (R127). -/
def twsRows0 : List (List Int) :=
  [ [0, 13176464, 26350943, 39521455, 52686014, 65842639, 78989349, 92124163]
  , [105245103, 118350194, 131437462, 144504935, 157550647, 170572633, 183568930, 196537583]
  , [209476638, 222384147, 235258165, 248096755, 260897982, 273659918, 286380643, 299058239]
  , [311690799, 324276419, 336813204, 349299266, 361732726, 374111709, 386434353, 398698801]
  , [410903207, 423045732, 435124548, 447137835, 459083786, 470960600, 482766489, 494499676]
  , [506158392, 517740883, 529245404, 540670223, 552013618, 563273883, 574449320, 585538248]
  , [596538995, 607449906, 618269338, 628995660, 639627258, 650162530, 660599890, 670937767]
  , [681174602, 691308855, 701339000, 711263525, 721080937, 730789757, 740388522, 749875788] ]

/-- `TWS[64..127]` (R127). -/
def twsRows1 : List (List Int) :=
  [ [759250125, 768510122, 777654384, 786681534, 795590213, 804379079, 813046808, 821592095]
  , [830013654, 838310216, 846480531, 854523370, 862437520, 870221790, 877875009, 885396022]
  , [892783698, 900036924, 907154608, 914135678, 920979082, 927683790, 934248793, 940673101]
  , [946955747, 953095785, 959092290, 964944360, 970651112, 976211688, 981625251, 986890984]
  , [992008094, 996975812, 1001793390, 1006460100, 1010975242, 1015338134, 1019548121, 1023604567]
  , [1027506862, 1031254418, 1034846671, 1038283080, 1041563127, 1044686319, 1047652185, 1050460278]
  , [1053110176, 1055601479, 1057933813, 1060106826, 1062120190, 1063973603, 1065666786, 1067199483]
  , [1068571464, 1069782521, 1070832474, 1071721163, 1072448455, 1073014240, 1073418433, 1073660973] ]

/-- `TWS[128..191]` (R127). -/
def twsRows2 : List (List Int) :=
  [ [1073741824, 1073660973, 1073418433, 1073014240, 1072448455, 1071721163, 1070832474, 1069782521]
  , [1068571464, 1067199483, 1065666786, 1063973603, 1062120190, 1060106826, 1057933813, 1055601479]
  , [1053110176, 1050460278, 1047652185, 1044686319, 1041563127, 1038283080, 1034846671, 1031254418]
  , [1027506862, 1023604567, 1019548121, 1015338134, 1010975242, 1006460100, 1001793390, 996975812]
  , [992008094, 986890984, 981625251, 976211688, 970651112, 964944360, 959092290, 953095785]
  , [946955747, 940673101, 934248793, 927683790, 920979082, 914135678, 907154608, 900036924]
  , [892783698, 885396022, 877875009, 870221790, 862437520, 854523370, 846480531, 838310216]
  , [830013654, 821592095, 813046808, 804379079, 795590213, 786681534, 777654384, 768510122] ]

/-- `TWS[192..255]` (R127). -/
def twsRows3 : List (List Int) :=
  [ [759250125, 749875788, 740388522, 730789757, 721080937, 711263525, 701339000, 691308855]
  , [681174602, 670937767, 660599890, 650162530, 639627258, 628995660, 618269338, 607449906]
  , [596538995, 585538248, 574449320, 563273883, 552013618, 540670223, 529245404, 517740883]
  , [506158392, 494499676, 482766489, 470960600, 459083786, 447137835, 435124548, 423045732]
  , [410903207, 398698801, 386434353, 374111709, 361732726, 349299266, 336813204, 324276419]
  , [311690799, 299058239, 286380643, 273659918, 260897982, 248096755, 235258165, 222384147]
  , [209476638, 196537583, 183568930, 170572633, 157550647, 144504935, 131437462, 118350194]
  , [105245103, 92124163, 78989349, 65842639, 52686014, 39521455, 26350943, 13176464] ]

/-- The table `TWS` (R127). -/
def twsRows : List (List Int) := twsRows0 ++ twsRows1 ++ twsRows2 ++ twsRows3

/-- Entry `j` of a table of rows of eight. Every index a rule forms is below 256 (R132, R153, R173). -/
def tableEntry (rows : List (List Int)) (j : Nat) : Int := (rows.getD (j / 8) []).getD (j % 8) 0

/-- `TWC[j]`: the coefficient nearest to `2^30 * cos (2 * pi * j / 512)` (R126). -/
def twc (j : Nat) : Int := tableEntry twcRows j

/-- `TWS[j]`: the coefficient nearest to `2^30 * sin (2 * pi * j / 512)` (R126). -/
def tws (j : Nat) : Int := tableEntry twsRows j

end Sys2Proof.Machine
end

