-- ==== Sys2Proof/Machine/Numerics.lean ====
section
/-!
DEFINITION. Machine/Numerics.lean: the numeric primitives `WR`, `RND`, `RSHR` and `ROT`
(spec/40_numerics_and_tables.md R121 to R125, R130, R132). Sums and products are exact integers; a word is stored only
through one of these (R12).
-/

namespace Sys2Proof.Machine

/-- `wrap32(v)`: the `s32` congruent to `v` modulo 2^32, as the word that encodes it (R10). -/
def wrap32 (v : Int) : Word := BitVec.ofInt 32 v

/-- `WR(v)` (R121). -/
def wr (v : Int) : Marked Word := { val := wrap32 v, mark := outsideS32 v }

/-- `(a + 2^(s-1)) >> s`, the floor shift: to nearest, a tie toward +∞ (R10, R122, R123). -/
def roundShift (a : Int) (s : Nat) : Int := (a + (2 ^ (s - 1) : Nat)) >>> s

/-- `RND(a, s)` (R122). -/
def rnd (a : Int) (s : Nat) : Marked Word := wr (roundShift a s)

/-- `RSHR(v, s)` (R123). -/
def rshr (v : Word) (s : Nat) : Word := wrap32 (roundShift v.toInt s)

/-- `CF`, the number of fraction bits of a coefficient (R8, R125) and the only shift of `RND` (R122). -/
def coefBits : Nat := 30

/-- `ROT(a, b, j).re` (R132). -/
def rotRe (a b : Word) (j : Nat) : Marked Word := rnd (a.toInt * twc j + b.toInt * tws j) coefBits

/-- `ROT(a, b, j).im` (R132). -/
def rotIm (a b : Word) (j : Nat) : Marked Word := rnd (b.toInt * twc j - a.toInt * tws j) coefBits

/-- The words of a temporary array read at an index (R11). Every index a rule forms lies inside the array. -/
def wordAt (l : List Word) (i : Nat) : Word := l.getD i 0#32

end Sys2Proof.Machine
end

