-- ==== Sys2Proof/Machine/Ops.lean ====
section
/-!
DEFINITION. Machine/Ops.lean: the named operations over the state: arrays of words, the registers the host reads
(spec/20_memory.md R62, R63), the result buffers (spec/10_state.md R22), the contexts (R40, R43), taking a fault
(spec/60_exceptions.md R276) and reset, the only way out of one (R277, spec/70_reset_and_hazards.md R310).
-/

namespace Sys2Proof.Machine

/-- An array of words whose entry `i` is `f i`. -/
def tabulate (n : Nat) (f : Nat → Word) : Vector Word n :=
  ⟨((List.range n).map f).toArray, by simp⟩

/-- Entry `i` of an array of words. No rule reads an entry outside an array (R41, R205, R241). -/
def entry {n : Nat} (v : Vector Word n) (i : Nat) : Word := v.toList.getD i 0#32

/-- An array with entry `i` replaced. -/
def setEntry {n : Nat} (v : Vector Word n) (i : Nat) (x : Word) : Vector Word n :=
  tabulate n fun j => if j = i then x else entry v j

/-- An array with the entries below `k` replaced by those of a list and the others kept (R22, R24). -/
def overwrite {n : Nat} (v : Vector Word n) (k : Nat) (l : List Word) : Vector Word n :=
  tabulate n fun i => if i < k then l.getD i 0#32 else entry v i

/-- The code of a cause (R271). -/
def causeCode : Cause → BitVec 4
  | .opc => 1#4
  | .enc => 2#4
  | .size => 3#4
  | .chan => 4#4
  | .arg => 5#4
  | .uninit => 6#4

/-- Fault entry, `raise Fault(code, w)` (R276): the three assignments, and nothing else. -/
def State.raiseFault (s : State) (c : Cause) (w : Word) : State :=
  { s with fault := true, errcode := causeCode c, faultcmd := w }

/-- Reset (R310, R52), the only event that clears `FAULT` (R277) and the only one that makes a context invalid. `NCH`
and `PROTO` are constants of the implementation (R8), and what the host does next and has read so far is the host's. -/
def State.afterReset (s : State) : State :=
  { State.resetWith s.nch s.proto with port := s.port, replies := s.replies }

/-- `YRE[0..k-1] <- l` (R22). -/
def State.storeRe (s : State) (k : Nat) (l : List Word) : State := { s with yre := overwrite s.yre k l }

/-- `YIM[0..k-1] <- l` (R22). -/
def State.storeIm (s : State) (k : Nat) (l : List Word) : State := { s with yim := overwrite s.yim k l }

/-- The context `A[c]` replaced; `S[c]` and every other context as before (R23). -/
def State.setAna (s : State) (c : Nat) (a : AnaCtx) : State :=
  { s with channels := s.channels.modify c fun ch => { ch with ana := a } }

/-- The context `S[c]` replaced; `A[c]` and every other context as before (R23). -/
def State.setSyn (s : State) (c : Nat) (y : SynCtx) : State :=
  { s with channels := s.channels.modify c fun ch => { ch with syn := y } }

/-- `XRE[i] <- v` (R64). -/
def State.setXre (s : State) (i : Nat) (v : Word) : State := { s with xre := setEntry s.xre i v }

/-- `XIM[i] <- v` (R64). -/
def State.setXim (s : State) (i : Nat) (v : Word) : State := { s with xim := setEntry s.xim i v }

/-- The sum over the contexts `c` of `(b c) << c` (R63). -/
def contextBits (b : Channel → Bool) : List Channel → Nat
  | [] => 0
  | ch :: rest => (b ch).toNat + 2 * contextBits b rest

/-- `CTXVALID` (R36, R63). -/
def State.ctxValidWord (s : State) : Word :=
  BitVec.ofNat 32 (contextBits (·.ana.valid) s.channels + 2 ^ 16 * contextBits (·.syn.valid) s.channels)

/-- `CTXMODE` (R37, R63). -/
def State.ctxModeWord (s : State) : Word :=
  BitVec.ofNat 32 (contextBits (·.ana.mode.toBit) s.channels + 2 ^ 16 * contextBits (·.syn.mode.toBit) s.channels)

/-- `VIDX` (R38, R63). -/
def State.vidxWord (s : State) : Word :=
  BitVec.ofNat 32 (contextBits (fun ch => decide (ch.syn.vidx = 1)) s.channels)

/-- `BusRead(off)` (R63). Every offset that is not listed reads 0 (R65), and so does `CMD` (R34). -/
def busRead (s : State) (off : Nat) : Word :=
  if off = Config.offId then Config.idValue
  else if off = Config.offCfg then BitVec.ofNat 32 s.nch
  else if off = Config.offStatus then s.statusWord
  else if off = Config.offCmd then 0#32
  else if off = Config.offFaultCmd then s.faultcmd
  else if off = Config.offCtxValid then s.ctxValidWord
  else if off = Config.offCtxMode then s.ctxModeWord
  else if off = Config.offVidx then s.vidxWord
  else if Config.offXre ≤ off ∧ off < Config.offXre + 0x100 then entry s.xre ((off - Config.offXre) / 4)
  else if Config.offXim ≤ off ∧ off < Config.offXim + 0x100 then entry s.xim ((off - Config.offXim) / 4)
  else if Config.offYre ≤ off ∧ off < Config.offYre + 0x100 then entry s.yre ((off - Config.offYre) / 4)
  else if Config.offYim ≤ off ∧ off < Config.offYim + 0x100 then entry s.yim ((off - Config.offYim) / 4)
  else 0#32

/-- The host has the answer of a read (R60). -/
def State.reply (s : State) (v : Word) : State := { s with replies := v :: s.replies }

end Sys2Proof.Machine
end

