-- ==== Sys2Proof/Machine/Operands.lean ====
section
/-!
DEFINITION. Machine/Operands.lean: the operands of a command: the words it reads from the buffers
(spec/10_state.md R21, R23), and the checks on its fields that need more than the word's fixed bits
(spec/30_encoding.md R91 steps 4 to 7), each with the fault it raises.
-/

namespace Sys2Proof.Machine

/-- The first `n` words of a buffer, `[XRE[i] : i in 0..n-1]` (R23). -/
def operand (v : Vector Word 64) (n : Nat) : List Word := (List.range n).map fun i => entry v i

/-- The size that the field `N` spells, if it is one of the three (R91 step 4, R97). -/
def sizeOfField (n : BitVec 8) : Option Size :=
  if n = 16#8 then some .n16
  else if n = 32#8 then some .n32
  else if n = 64#8 then some .n64
  else none

/-- A transform command (R91 step 4): `E_SIZE` unless `N` is 16, 32 or 64. -/
def onSize (i : Instr) (n : BitVec 8) (s : State) (run : Size → State) : Out :=
  match sizeOfField n with
  | none => .next (s.raiseFault .size (encode i))
  | some sz => .next (run sz)

/-- A construction command (R91 step 5): `E_CHAN` unless `CH` is below `NCH`. -/
def onChannel (i : Instr) (c : BitVec 4) (s : State) (run : Channel → State) : Out :=
  match s.channels[c.toNat]? with
  | none => .next (s.raiseFault .chan (encode i))
  | some ch => .next (run ch)

/-- A slot command (R91 steps 6 and 7): `E_CHAN`, then `E_ARG` above `limit`, then `E_UNINIT`. -/
def onSlot (i : Instr) (c : BitVec 4) (arg : BitVec 8) (limit : Nat) (valid : Channel → Bool) (s : State)
    (run : Channel → State) : Out :=
  match s.channels[c.toNat]? with
  | none => .next (s.raiseFault .chan (encode i))
  | some ch =>
    if limit < arg.toNat then .next (s.raiseFault .arg (encode i))
    else if valid ch = false then .next (s.raiseFault .uninit (encode i))
    else .next (run ch)

end Sys2Proof.Machine
end

