-- ==== Sys2Proof/Machine/Fft.lean ====
section
/-!
DEFINITION. Machine/Fft.lean: the radix-2 decimation-in-frequency FFT (spec/41_fft.md R150 to R156).
-/

namespace Sys2Proof.Machine

/-- The two work arrays of the FFT, real and imaginary parts, with the overflow mark so far (R124, R152). They are
temporaries of one command, not state (R51). -/
structure Work where
  re : List Word
  im : List Word
  mark : Bool
deriving DecidableEq, Repr

/-- `BUTTERFLY(re, im, p, q, j)` (R152): the wrapped sum at `p`, the wrapped difference, rotated, at `q`. -/
def butterfly (w : Work) (p q j : Nat) : Work :=
  let ar := (wordAt w.re p).toInt
  let ai := (wordAt w.im p).toInt
  let br := (wordAt w.re q).toInt
  let bi := (wordAt w.im q).toInt
  let sr := wr (ar + br)
  let si := wr (ai + bi)
  let dr := wr (ar - br)
  let di := wr (ai - bi)
  let rr := rotRe dr.val di.val j
  let ri := rotIm dr.val di.val j
  { re := (w.re.set p sr.val).set q rr.val
    im := (w.im.set p si.val).set q ri.val
    mark := w.mark || sr.mark || si.mark || dr.mark || di.mark || rr.mark || ri.mark }

/-- The butterflies `(p, q, j)` of the stage of one `span` over an array of `n` words, in the order of R153. -/
def stageButterflies (n span : Nat) : List (Nat × Nat × Nat) :=
  (List.range (n / (2 * span))).flatMap fun g =>
    (List.range span).map fun k => (2 * span * g + k, 2 * span * g + k + span, k * (256 / span))

/-- One stage of the core (R153). -/
def fftStage (n : Nat) (w : Work) (span : Nat) : Work :=
  (stageButterflies n span).foldl (fun w b => butterfly w b.1 b.2.1 b.2.2) w

/-- The spans of the stages of a `2^b`-point core: `N/2` down to 1 (R153). -/
def spans : Nat → List Nat
  | 0 => []
  | b + 1 => 2 ^ b :: spans b

/-- `FFTCORE(N, re, im)` for `N = 2^b` (R153), in place, the result in bit-reversed order. -/
def fftCore (b : Nat) (w : Work) : Work := (spans b).foldl (fftStage (2 ^ b)) w

/-- `bitrev_b(k)` (R17, R154): bit `i` of the result is bit `b-1-i` of `k`. -/
def bitrev : Nat → Nat → Nat
  | 0, _ => 0
  | b + 1, k => (k % 2) * 2 ^ b + bitrev b (k / 2)

/-- The FFT of two lists of `N` words, read out in natural order (R150). -/
def fft (sz : Size) (xr xi : List Word) : Work :=
  let w := fftCore sz.bits { re := xr, im := xi, mark := false }
  { re := (List.range sz.points).map fun k => wordAt w.re (bitrev sz.bits k)
    im := (List.range sz.points).map fun k => wordAt w.im (bitrev sz.bits k)
    mark := w.mark }

/-- `FFT N` (R150). -/
def execFft (n : BitVec 8) (s : State) : Out :=
  onSize (.fft n) n s fun sz =>
    let y := fft sz (operand s.xre sz.points) (operand s.xim sz.points)
    ((s.storeRe sz.points y.re).storeIm sz.points y.im).markOvf y.mark

end Sys2Proof.Machine
end

