-- ==== Sys2Proof/Machine/Transforms.lean ====
section
/-!
DEFINITION. Machine/Transforms.lean: the DCT-II, DCT-III, DCT-IV, DST-II and DST-IV engines
(spec/42_transforms.md R171 to R176). Each engine is a function on a list of `N` words with the overflow mark of all it
computes (R124); the QMF banks call the same functions as the commands.
-/

namespace Sys2Proof.Machine

/-- The pre-modulation of R172 and R173: `(re[n], im[n]) <- ROT(x[n], 0, idx n)`. -/
def preRotate (n : Nat) (x : List Word) (idx : Nat → Nat) : Work :=
  let re := markedList n fun i => rotRe (wordAt x i) 0#32 (idx i)
  let im := markedList n fun i => rotIm (wordAt x i) 0#32 (idx i)
  { re := re.val, im := im.val, mark := re.mark || im.mark }

/-- The sign alternation of R174 and R175: the entries of odd index negated by `WR`. -/
def negateOdd (n : Nat) (x : List Word) : Marked (List Word) :=
  markedList n fun i => if i % 2 = 0 then { val := wordAt x i, mark := false } else wr (-(wordAt x i).toInt)

/-- `dct2(N, x)` (R171). Of the post-modulation only the real part is computed (DEDUCED, log entry 4). -/
def dct2 (sz : Size) (x : List Word) : Marked (List Word) :=
  let n := sz.points
  let v := (List.range n).map fun i => if i < n / 2 then wordAt x (2 * i) else wordAt x (2 * (n - 1 - i) + 1)
  let w := fftCore sz.bits { re := v, im := List.replicate n 0#32, mark := false }
  let y := markedList n fun k =>
    rotRe (wordAt w.re (bitrev sz.bits k)) (wordAt w.im (bitrev sz.bits k)) (k * (128 / n))
  { val := y.val, mark := w.mark || y.mark }

/-- `dct3(N, x)` (R172). -/
def dct3 (sz : Size) (x : List Word) : Marked (List Word) :=
  let n := sz.points
  let w := fftCore sz.bits (preRotate n x fun k => k * (128 / n))
  { val := (List.range n).map fun i =>
      if i % 2 = 0 then wordAt w.re (bitrev sz.bits (i / 2)) else wordAt w.re (bitrev sz.bits (n - 1 - i / 2))
    mark := w.mark }

/-- `dct4(N, x)` (R173). Output `2m` comes from bin `m`, output `2(N-1-m)+1` from bin `m`, negated before rounding. -/
def dct4 (sz : Size) (x : List Word) : Marked (List Word) :=
  let n := sz.points
  let w := fftCore sz.bits (preRotate n x fun i => (2 * i + 1) * (64 / n))
  let acc := fun m : Nat =>
    (wordAt w.re (bitrev sz.bits m)).toInt * twc (m * (256 / n))
      + (wordAt w.im (bitrev sz.bits m)).toInt * tws (m * (256 / n))
  let y := markedList n fun k =>
    if k % 2 = 0 then rnd (acc (k / 2)) coefBits else rnd (-(acc (n - 1 - k / 2))) coefBits
  { val := y.val, mark := w.mark || y.mark }

/-- `dst2(N, x)` (R174). -/
def dst2 (sz : Size) (x : List Word) : Marked (List Word) :=
  let n := sz.points
  let xa := negateOdd n x
  let c := dct2 sz xa.val
  { val := (List.range n).map fun k => wordAt c.val (n - 1 - k), mark := xa.mark || c.mark }

/-- `dst4(N, x)` (R175). -/
def dst4 (sz : Size) (x : List Word) : Marked (List Word) :=
  let n := sz.points
  let c := dct4 sz ((List.range n).map fun i => wordAt x (n - 1 - i))
  let y := negateOdd n c.val
  { val := y.val, mark := c.mark || y.mark }

/-- The command of an engine (R176): reads `XRE[0..N-1]`, writes `YRE[0..N-1]`, may set `OVF`. -/
def runEngine (engine : Size → List Word → Marked (List Word)) (s : State) (sz : Size) : State :=
  let y := engine sz (operand s.xre sz.points)
  (s.storeRe sz.points y.val).markOvf y.mark

/-- `DCT2 N` (R171). -/
def execDct2 (n : BitVec 8) (s : State) : Out := onSize (.dct2 n) n s (runEngine dct2 s)

/-- `DCT3 N` (R172). -/
def execDct3 (n : BitVec 8) (s : State) : Out := onSize (.dct3 n) n s (runEngine dct3 s)

/-- `DCT4 N` (R173). -/
def execDct4 (n : BitVec 8) (s : State) : Out := onSize (.dct4 n) n s (runEngine dct4 s)

/-- `DST2 N` (R174). -/
def execDst2 (n : BitVec 8) (s : State) : Out := onSize (.dst2 n) n s (runEngine dst2 s)

/-- `DST4 N` (R175). -/
def execDst4 (n : BitVec 8) (s : State) : Out := onSize (.dst4 n) n s (runEngine dst4 s)

end Sys2Proof.Machine
end

