-- ==== Sys2Proof/Machine/Analysis.lean ====
section
/-!
DEFINITION. Machine/Analysis.lean: the QMF analysis bank (spec/43_qmf_analysis.md R201 to R208).
-/

namespace Sys2Proof.Machine

/-- `A[c]` after `AINIT c, m` (R201). -/
def anaInit (m : Mode) : AnaCtx := { hist := tabulate 320 fun _ => 0#32, valid := true, mode := m }

/-- `AINIT c, m` (R201). -/
def execAinit (c : BitVec 4) (m : Mode) (s : State) : Out :=
  onChannel (.ainit c m) c s fun _ => s.setAna c.toNat (anaInit m)

/-- Step 1, `AHIST(c, in)` (R204): the 32 new samples in front, the latest at index 0, the oldest 32 gone. -/
def ahist (h : Vector Word 320) (x : Vector Word 64) : Vector Word 320 :=
  tabulate 320 fun i => if i < 32 then entry x (31 - i) else entry h (i - 32)

/-- Step 2, `AWINDOW(c)` (R205): 64 sums of five products, each rounded once. -/
def awindow (proto : Vector Word 640) (h : Vector Word 320) : Marked (List Word) :=
  markedList 64 fun n =>
    rnd ((List.range 5).map fun k => (entry h (n + 64 * k)).toInt * (entry proto (2 * (n + 64 * k))).toInt).sum coefBits

/-- The fold at the head of step 3 (R206), 32 entries. -/
def lpFold (u : List Word) : Marked (List Word) :=
  markedList 32 fun n =>
    if n = 0 then { val := wordAt u 48, mark := false }
    else if n < 16 then wr ((wordAt u (n + 48)).toInt + (wordAt u (48 - n)).toInt)
    else wr (-(wordAt u (n - 16)).toInt + (wordAt u (48 - n)).toInt)

/-- The frame that a modulation step gives: 32 real and 32 imaginary parts, with the mark of all it computed. -/
structure Frame where
  re : List Word
  im : List Word
  mark : Bool
deriving DecidableEq, Repr

/-- Step 3, `AMOD_LP(u)` (R206); the imaginary parts are 0 (R203). -/
def amodLp (u : List Word) : Frame :=
  let y := lpFold u
  let d := dct3 .n32 y.val
  let r := markedList 32 fun k => wr (2 * (wordAt d.val k).toInt)
  { re := r.val, im := List.replicate 32 0#32, mark := y.mark || d.mark || r.mark }

/-- The sequence x' at the head of step 4 (R207), 64 entries: `u[0]`, then `u[n+1]` and `WR(-u[63-n])` for `n` from 0 to
30, then `u[32]`. -/
def hqSequence (u : List Word) : Marked (List Word) :=
  markedList 64 fun m =>
    if m = 0 then { val := wordAt u 0, mark := false }
    else if m = 63 then { val := wordAt u 32, mark := false }
    else if m % 2 = 1 then { val := wordAt u ((m - 1) / 2 + 1), mark := false }
    else wr (-(wordAt u (63 - (m - 2) / 2)).toInt)

/-- Step 4, `AMOD_HQ(u)` (R207). -/
def amodHq (u : List Word) : Frame :=
  let x := hqSequence u
  let y := dct4 .n64 x.val
  let r := markedList 32 fun k => wr (2 * (wordAt y.val k).toInt)
  let q := markedList 32 fun k => wr (-2 * (wordAt y.val (63 - k)).toInt)
  { re := r.val, im := q.val, mark := x.mark || y.mark || r.mark || q.mark }

/-- The zero fill (R203, R208): the bands below `kx` as computed, the literal 0 at and above `kx`. -/
def zeroFill (kx : Nat) (r : List Word) : List Word :=
  (List.range 32).map fun k => if k < kx then wordAt r k else 0#32

/-- Steps 2 to 4 of a slot on a history that step 1 has updated, in the context's mode (R203). -/
def analysisFrame (proto : Vector Word 640) (m : Mode) (h : Vector Word 320) : Frame :=
  let u := awindow proto h
  let f := match m with
    | .lp => amodLp u.val
    | .hq => amodHq u.val
  { f with mark := u.mark || f.mark }

/-- One analysis slot on a constructed context (R203). -/
def analysisSlot (c kx : Nat) (s : State) (a : AnaCtx) : State :=
  let h := ahist a.hist s.xre
  let f := analysisFrame s.proto a.mode h
  (((s.setAna c { a with hist := h }).storeRe 32 (zeroFill kx f.re)).storeIm 32 (zeroFill kx f.im)).markOvf f.mark

/-- `QMFA c, kx` (R203). -/
def execQmfa (c : BitVec 4) (kx : BitVec 8) (s : State) : Out :=
  onSlot (.qmfa c kx) c kx 32 (·.ana.valid) s fun ch => analysisSlot c.toNat kx.toNat s ch.ana

end Sys2Proof.Machine
end

