-- ==== Sys2Proof/Machine/Misc.lean ====
section
/-!
DEFINITION. Machine/Misc.lean: `NOP` (spec/45_misc_commands.md R260).
-/

namespace Sys2Proof.Machine

/-- `NOP` (R260): no state changes. -/
def execNop (s : State) : Out := .next s

end Sys2Proof.Machine
end

