-- ==== Sys2Proof/Machine/Synthesis.lean ====
section
/-!
DEFINITION. Machine/Synthesis.lean: the QMF synthesis bank (spec/44_qmf_synthesis.md R231, R233 to R241).
-/

namespace Sys2Proof.Machine

/-- `S[c]` after `SINIT c, m` (R231): all 1280 words 0 in both modes. -/
def synInit (m : Mode) : SynCtx := { hist := tabulate 1280 fun _ => 0#32, valid := true, mode := m, vidx := 0 }

/-- `SINIT c, m` (R231). -/
def execSinit (c : BitVec 4) (m : Mode) (s : State) : Out :=
  onChannel (.sinit c m) c s fun _ => s.setSyn c.toNat (synInit m)

/-- What one slot leaves: the new history, the 64 output samples, and the mark of all it computed. -/
structure SynResult where
  hist : Vector Word 1280
  out : List Word
  mark : Bool
deriving DecidableEq, Repr

/-- HQ step 1, the sequence `x1` (R234): real parts in band order, scaled by 1/64. -/
def hqX1 (xre : Vector Word 64) (nb : Nat) : List Word :=
  (List.range 64).map fun k => if k < nb then rshr (entry xre k) 6 else 0#32

/-- HQ step 1, the sequence `x2` (R234): imaginary parts in reversed band order, scaled by 1/64. -/
def hqX2 (xim : Vector Word 64) (nb : Nat) : List Word :=
  (List.range 64).map fun k => if 63 - k < nb then rshr (entry xim (63 - k)) 6 else 0#32

/-- HQ step 3, the combination (R235): `v[n] <- WR(s - y1[n])`, `v[127-n] <- WR(s + y1[n])` with `s` the exact
`y2[n]`, negated for odd `n`. -/
def hqCombine (y1 y2 : List Word) : Marked (List Word) :=
  let s := fun n : Nat => if n % 2 = 0 then (wordAt y2 n).toInt else -(wordAt y2 n).toInt
  markedList 128 fun i =>
    if i < 64 then wr (s i - (wordAt y1 i).toInt) else wr (s (127 - i) + (wordAt y1 (127 - i)).toInt)

/-- HQ step 4, the two regions (R236): both age by 64; region `a` receives the first half of `v`, the other region the
second half. -/
def hqHistory (h : Vector Word 1280) (a : Fin 2) (v : List Word) : Vector Word 1280 :=
  tabulate 1280 fun i =>
    let region := i / 640
    let r := i % 640
    if 64 ≤ r then entry h (i - 64) else if region = a.val then wordAt v r else wordAt v (64 + r)

/-- HQ step 5, the output (R237): ten products over region `a`, rounded once. -/
def hqOutput (proto : Vector Word 640) (h : Vector Word 1280) (a : Fin 2) : Marked (List Word) :=
  markedList 64 fun k =>
    rnd ((List.range 10).map fun j =>
      (entry h (640 * a.val + 64 * j + k)).toInt * (entry proto (64 * j + k)).toInt).sum coefBits

/-- `SYN_HQ` (R234 to R237) on a history, with `a` the value of `vidx` before the slot. -/
def synHq (proto : Vector Word 640) (h : Vector Word 1280) (a : Fin 2) (xre xim : Vector Word 64) (nb : Nat) :
    SynResult :=
  let y1 := dct4 .n64 (hqX1 xre nb)
  let y2 := dct4 .n64 (hqX2 xim nb)
  let v := hqCombine y1.val y2.val
  let h' := hqHistory h a v.val
  let o := hqOutput proto h' a
  { hist := h', out := o.val, mark := y1.mark || y2.mark || v.mark || o.mark }

/-- LP step 1, the sequence `x` (R238): the subbands scaled by 1/32. -/
def lpX (xre : Vector Word 64) (nb : Nat) : List Word :=
  (List.range 64).map fun k => if k < nb then rshr (entry xre k) 5 else 0#32

/-- LP step 1, the sequence `yy` (R238): `x` with every entry of even index negated by `WR`. -/
def lpYy (x : List Word) : Marked (List Word) :=
  markedList 64 fun k => if k % 2 = 0 then wr (-(wordAt x k).toInt) else { val := wordAt x k, mark := false }

/-- LP step 3, the scatter (R239): 128 entries from `D = dct2(64, x)` and `T = dst2(64, yy)`. -/
def lpScatter (d t : List Word) : List Word :=
  (List.range 128).map fun i =>
    if i < 32 then wordAt d (31 - i + 1)
    else if i < 96 then wordAt d (i - 32)
    else if i = 96 then 0#32
    else wordAt t (i - 96 - 1)

/-- LP step 4, the history (R240): aged by 128, the new block in front. -/
def lpHistory (h : Vector Word 1280) (v : List Word) : Vector Word 1280 :=
  tabulate 1280 fun i => if i < 128 then wordAt v i else entry h (i - 128)

/-- LP step 5, the output (R241): ten products, rounded once. -/
def lpOutput (proto : Vector Word 640) (h : Vector Word 1280) : Marked (List Word) :=
  markedList 64 fun k =>
    rnd ((List.range 5).map fun j =>
      (entry h (256 * j + k)).toInt * (entry proto (128 * j + k)).toInt
        + (entry h (256 * j + 192 + k)).toInt * (entry proto (128 * j + 64 + k)).toInt).sum coefBits

/-- `SYN_LP` (R238 to R241) on a history. -/
def synLp (proto : Vector Word 640) (h : Vector Word 1280) (xre : Vector Word 64) (nb : Nat) : SynResult :=
  let x := lpX xre nb
  let yy := lpYy x
  let d := dct2 .n64 x
  let t := dst2 .n64 yy.val
  let h' := lpHistory h (lpScatter d.val t.val)
  let o := lpOutput proto h'
  { hist := h', out := o.val, mark := yy.mark || d.mark || t.mark || o.mark }

/-- One synthesis slot on a constructed context (R233): in HQ mode `vidx` moves to the other region (R236), in LP mode
it is not touched (R240). -/
def synthesisSlot (c nb : Nat) (s : State) (y : SynCtx) : State :=
  match y.mode with
  | .hq =>
    let r := synHq s.proto y.hist y.vidx s.xre s.xim nb
    ((s.setSyn c { y with hist := r.hist, vidx := 1 - y.vidx }).storeRe 64 r.out).markOvf r.mark
  | .lp =>
    let r := synLp s.proto y.hist s.xre nb
    ((s.setSyn c { y with hist := r.hist }).storeRe 64 r.out).markOvf r.mark

/-- `QMFS c, nb` (R233). -/
def execQmfs (c : BitVec 4) (nb : BitVec 8) (s : State) : Out :=
  onSlot (.qmfs c nb) c nb 64 (·.syn.valid) s fun ch => synthesisSlot c.toNat nb.toNat s ch.syn

end Sys2Proof.Machine
end

