-- ==== Sys2Proof/Machine/Dispatch.lean ====
section
/-!
DEFINITION. Machine/Dispatch.lean: one arm for each command of spec/30_encoding.md R92.
-/

namespace Sys2Proof.Machine

def exec (i : Instr) (s : State) : Host.Outcome State Fault Refusal :=
  match i with
  | .nop => Sys2Proof.Machine.execNop s
  | .fft n => Sys2Proof.Machine.execFft n s
  | .dct2 n => Sys2Proof.Machine.execDct2 n s
  | .dct3 n => Sys2Proof.Machine.execDct3 n s
  | .dct4 n => Sys2Proof.Machine.execDct4 n s
  | .dst2 n => Sys2Proof.Machine.execDst2 n s
  | .dst4 n => Sys2Proof.Machine.execDst4 n s
  | .ainit ch mode => Sys2Proof.Machine.execAinit ch mode s
  | .qmfa ch kx => Sys2Proof.Machine.execQmfa ch kx s
  | .sinit ch mode => Sys2Proof.Machine.execSinit ch mode s
  | .qmfs ch nb => Sys2Proof.Machine.execQmfs ch nb s

end Sys2Proof.Machine
end

