-- ==== Sys2Proof/Machine/Bus.lean ====
section
/-!
DEFINITION. Machine/Bus.lean: what one bus transaction or reset does to the block (spec/20_memory.md R60 to R67,
spec/30_encoding.md R91, spec/70_reset_and_hazards.md R310).
-/

namespace Sys2Proof.Machine

/-- A command word executed while `FAULT = 0` (R34, R91): the command it selects runs, or the decoder's fault is
taken. -/
def runCommand (w : Word) (s : State) : Out :=
  match decode w with
  | .ok i => exec i s
  | .error c => .next (s.raiseFault c w)

/-- `BusWrite(off, v)` (R64). A write to any other offset has no effect (R65, R66), and while `FAULT = 1` every write is
ignored (R67). -/
def busWrite (off : Nat) (v : Word) (s : State) : Out :=
  if s.fault then .next s
  else if off = Config.offStatus then .next (if v.getLsbD 1 then s.clearOvf else s)
  else if off = Config.offCmd then runCommand v s
  else if Config.offXre ≤ off ∧ off < Config.offXre + 0x100 then .next (s.setXre ((off - Config.offXre) / 4) v)
  else if Config.offXim ≤ off ∧ off < Config.offXim + 0x100 then .next (s.setXim ((off - Config.offXim) / 4) v)
  else .next s

/-- What one event at the pins does (R14): a read answers and changes nothing else (R63), a write is `busWrite`, a reset
is `State.afterReset`. -/
def serve (e : HostEvent) (s : State) : Out :=
  match e with
  | .read a => .next (s.reply (busRead s a.offset))
  | .write a v => busWrite a.offset v s
  | .reset => .next s.afterReset

/-- The word address of `CMD` on the port. -/
def cmdAddr : WordAddr := BitVec.ofNat 10 (Config.offCmd / 4)

/-- The write that carries a command word to the block (R34). -/
def commandWrite (w : Word) : HostEvent := .write cmdAddr w

end Sys2Proof.Machine
end

