-- ==== Sys2Proof/Machine/Step.lean ====
section
/-!
DEFINITION. Machine/Step.lean: one step of the machine (spec/00_scope.md R14): the earliest pending event at the pins,
to completion (spec/20_memory.md R60, R61).
-/

namespace Sys2Proof.Machine

/-- One step (R14): the next event at the pins is served, or, where the host does nothing, nothing changes. -/
def step (s : State) : Host.Outcome State Fault Refusal :=
  match s.port with
  | [] => .next s
  | e :: rest => serve e { s with port := rest }

/-- The state with a write of the command word `w` to `CMD` as the next event at the pins, so that the next step runs
it (R34). The block fetches nothing (R26): a program is what the host writes (log entry 2). -/
def State.withFetchWord (s : State) (nbits w : Nat) : State :=
  { s with port := commandWrite (BitVec.ofNat 32 (w % 2 ^ nbits)) :: s.port }

end Sys2Proof.Machine
end

