-- ==== Sys2Proof/Machine/Assembler.lean ====
section
/-!
DEFINITION. Machine/Assembler.lean: the host-program notation of spec/30_encoding.md R100 and R101, and the host loops
of spec/70_reset_and_hazards.md R313 and R323, each as the list of bus transactions it stands for. The block runs no
program (R26): a host program is what `State.port` holds.
-/

namespace Sys2Proof.Machine.Asm

/-- `wr <offset>, <value>` (R100): a negative value stands for its two's-complement word. -/
def wr (off : Nat) (v : Int) : HostEvent := .write (BitVec.ofNat 10 (off / 4)) (wrap32 v)

/-- `rd <offset>` (R100). -/
def rd (off : Nat) : HostEvent := .read (BitVec.ofNat 10 (off / 4))

/-- A write to `CMD` (R100). The mnemonics do not check their arguments. -/
def cmd (w : Nat) : HostEvent := wr Config.offCmd w

/-- `nop` (R100). -/
def nop : HostEvent := cmd 0

/-- `fft N` (R100). -/
def fft (n : Nat) : HostEvent := cmd (n <<< 8 ||| 1)
/-- `dct2 N` (R100). -/
def dct2 (n : Nat) : HostEvent := cmd (n <<< 8 ||| 2)
/-- `dct3 N` (R100). -/
def dct3 (n : Nat) : HostEvent := cmd (n <<< 8 ||| 3)
/-- `dct4 N` (R100). -/
def dct4 (n : Nat) : HostEvent := cmd (n <<< 8 ||| 4)
/-- `dst2 N` (R100). -/
def dst2 (n : Nat) : HostEvent := cmd (n <<< 8 ||| 5)
/-- `dst4 N` (R100). -/
def dst4 (n : Nat) : HostEvent := cmd (n <<< 8 ||| 6)

/-- `ainit c, hq|lp` (R100). -/
def ainit (c : Nat) (m : Mode) : HostEvent := cmd (m.toBit.toNat <<< 16 ||| c <<< 4 ||| 8)
/-- `qmfa c, kx` (R100). -/
def qmfa (c kx : Nat) : HostEvent := cmd (kx <<< 16 ||| c <<< 4 ||| 9)
/-- `sinit c, hq|lp` (R100). -/
def sinit (c : Nat) (m : Mode) : HostEvent := cmd (m.toBit.toNat <<< 16 ||| c <<< 4 ||| 10)
/-- `qmfs c, nb` (R100). -/
def qmfs (c nb : Nat) : HostEvent := cmd (nb <<< 16 ||| c <<< 4 ||| 11)

/-- Successive entries of a buffer written from its entry 0. -/
def load (base : Nat) (vs : List Int) : List HostEvent := vs.zipIdx.map fun p => wr (base + 4 * p.2) p.1

/-- `ldx v0, v1, ...` (R101). -/
def ldx (vs : List Int) : List HostEvent := load Config.offXre vs

/-- `ldxi v0, v1, ...` (R101). -/
def ldxi (vs : List Int) : List HostEvent := load Config.offXim vs

/-- Successive entries of a buffer read from its entry 0. -/
def unload (base n : Nat) : List HostEvent := (List.range n).map fun i => rd (base + 4 * i)

/-- `clrovf` (R101). -/
def clrovf : HostEvent := wr Config.offStatus 2

/-- `new_analysis n, hq|lp` (R101). -/
def newAnalysis (n : Nat) (m : Mode) : List HostEvent := (List.range n).map fun c => ainit c m

/-- `new_synthesis n, hq|lp` (R101). -/
def newSynthesis (n : Nat) (m : Mode) : List HostEvent := (List.range n).map fun c => sinit c m

/-- The bring-up of R313, for two HQ channels. -/
def bringUp : List HostEvent :=
  [rd Config.offId, rd Config.offCfg] ++ newAnalysis 2 .hq ++ newSynthesis 2 .hq
    ++ [rd Config.offStatus, rd Config.offCtxValid]

/-- The analysis loop of R323: for each slot, 32 samples written, one `QMFA`, the frame read back. -/
def analysisLoop (c kx : Nat) (slots : List (List Int)) : List HostEvent :=
  slots.flatMap fun x => ldx x ++ [qmfa c kx] ++ unload Config.offYre 32 ++ unload Config.offYim 32

/-- The synthesis loop of R323: for each frame, its parts written, one `QMFS`, the 64 samples read back. -/
def synthesisLoop (c nb : Nat) (frames : List (List Int × List Int)) : List HostEvent :=
  frames.flatMap fun f => ldx f.1 ++ ldxi f.2 ++ [qmfs c nb] ++ unload Config.offYre 64

end Sys2Proof.Machine.Asm
end

