-- ==== Sys2Proof/Machine/Reference.lean ====
section
/-!
DEFINITION. Machine/Reference.lean: the reference formulas in exact real arithmetic (spec/00_scope.md R13): the DFT
(spec/41_fft.md R151), the five transforms (spec/42_transforms.md R170), the modulations of the analysis bank
(spec/43_qmf_analysis.md R206, R207) and the slot of the synthesis bank (spec/44_qmf_synthesis.md R232). They are
the contract the datapath is held to; the machine executes the datapath and calls none of them (R13).
-/

namespace Sys2Proof.Machine.Reference

/-- The real part of `DFT_N(x)[k]` for `x[n] = a n + i * b n` (R151). -/
noncomputable def dftRe (N : Nat) (a b : Nat → ℝ) (k : Nat) : ℝ :=
  ∑ n ∈ Finset.range N,
    (a n * Real.cos (2 * Real.pi * n * k / N) + b n * Real.sin (2 * Real.pi * n * k / N))

/-- The imaginary part of `DFT_N(x)[k]` for `x[n] = a n + i * b n` (R151). -/
noncomputable def dftIm (N : Nat) (a b : Nat → ℝ) (k : Nat) : ℝ :=
  ∑ n ∈ Finset.range N,
    (b n * Real.cos (2 * Real.pi * n * k / N) - a n * Real.sin (2 * Real.pi * n * k / N))

/-- `DCT2_N(x)[k]` (R170). -/
noncomputable def dct2 (N : Nat) (x : Nat → ℝ) (k : Nat) : ℝ :=
  ∑ n ∈ Finset.range N, x n * Real.cos (Real.pi / N * (n + 1 / 2) * k)

/-- `DCT3_N(x)[n]` (R170); the term `k = 0` has weight 1. -/
noncomputable def dct3 (N : Nat) (x : Nat → ℝ) (n : Nat) : ℝ :=
  ∑ k ∈ Finset.range N, x k * Real.cos (Real.pi / N * (n + 1 / 2) * k)

/-- `DCT4_N(x)[k]` (R170). -/
noncomputable def dct4 (N : Nat) (x : Nat → ℝ) (k : Nat) : ℝ :=
  ∑ n ∈ Finset.range N, x n * Real.cos (Real.pi / N * (n + 1 / 2) * (k + 1 / 2))

/-- `DST2_N(x)[k]` (R170). -/
noncomputable def dst2 (N : Nat) (x : Nat → ℝ) (k : Nat) : ℝ :=
  ∑ n ∈ Finset.range N, x n * Real.sin (Real.pi / N * (n + 1 / 2) * (k + 1))

/-- `DST4_N(x)[k]` (R170). -/
noncomputable def dst4 (N : Nat) (x : Nat → ℝ) (k : Nat) : ℝ :=
  ∑ n ∈ Finset.range N, x n * Real.sin (Real.pi / N * (n + 1 / 2) * (k + 1 / 2))

/-- The real subband `k` of a low-power analysis slot, with `u` exact (R206). -/
noncomputable def analysisLp (u : Nat → ℝ) (k : Nat) : ℝ :=
  2 * ∑ n ∈ Finset.range 64, u n * Real.cos (Real.pi / 32 * (k + 1 / 2) * ((n : ℝ) - 48))

/-- The real part of subband `k` of a high-quality analysis slot, with `u` exact (R207). -/
noncomputable def analysisHqRe (u : Nat → ℝ) (k : Nat) : ℝ :=
  2 * ∑ n ∈ Finset.range 64, u n * Real.cos (Real.pi / 64 * (k + 1 / 2) * (2 * n - 1 / 2))

/-- The imaginary part of subband `k` of a high-quality analysis slot, with `u` exact (R207). -/
noncomputable def analysisHqIm (u : Nat → ℝ) (k : Nat) : ℝ :=
  2 * ∑ n ∈ Finset.range 64, u n * Real.sin (Real.pi / 64 * (k + 1 / 2) * (2 * n - 1 / 2))

/-- The entry `n` of the new block `W[0..127]` of a high-quality synthesis slot, for subbands `a k + i * b k` (R232). -/
noncomputable def synthesisHq (a b : Nat → ℝ) (n : Nat) : ℝ :=
  ∑ k ∈ Finset.range 64,
    (a k / 64 * Real.cos (Real.pi / 128 * (k + 1 / 2) * (2 * n - 255))
      - b k / 64 * Real.sin (Real.pi / 128 * (k + 1 / 2) * (2 * n - 255)))

/-- The entry `n` of the new block `W[0..127]` of a low-power synthesis slot, for real subbands `a k` (R232). -/
noncomputable def synthesisLp (a : Nat → ℝ) (n : Nat) : ℝ :=
  ∑ k ∈ Finset.range 64, a k / 32 * Real.cos (Real.pi / 64 * (k + 1 / 2) * ((n : ℝ) - 32))

/-- The new block `W[0..127]` of a synthesis slot in mode `m` (R232). -/
noncomputable def synthesisBlock (m : Mode) (a b : Nat → ℝ) (n : Nat) : ℝ :=
  match m with
  | .hq => synthesisHq a b n
  | .lp => synthesisLp a n

/-- The reference history `W[0..1279]` after `SINIT`: all 0 (R232). -/
noncomputable def synthesisStart : Nat → ℝ := fun _ => 0

/-- The reference history after a slot: every entry 128 places up, the new block in front (R232). No rule reads an entry
above 1279. -/
noncomputable def synthesisHistory (W block : Nat → ℝ) (i : Nat) : ℝ :=
  if i < 128 then block i else W (i - 128)

/-- The output `out[k]` of a slot, from the history after it and the prototype table as integers (R232). -/
noncomputable def synthesisOut (P W : Nat → ℝ) (k : Nat) : ℝ :=
  (∑ j ∈ Finset.range 5,
    (W (256 * j + k) * P (128 * j + k) + W (256 * j + 192 + k) * P (128 * j + 64 + k))) / 2 ^ 30

end Sys2Proof.Machine.Reference
end

