-- ==== Sys2Proof/WellFormed.lean ====
section
/-!
DEFINITION. WellFormed.lean: which commands are legal on a block of `nch` contexts, the ranges of the fields in
spec/30_encoding.md R93 to R96 (the column "constraints" of `spec/opcode_table.json`, less the contexts' `valid` bits,
which are state).
-/

namespace Sys2Proof

/-- The field `N` of format T is 16, 32 or 64 (R93). -/
def sizeFieldLegal (n : BitVec 8) : Bool := n == 16#8 || n == 32#8 || n == 64#8

/-- A legal command on a block of `nch` contexts (R93 to R96). A command that is not legal decodes, and faults when it
runs (R98). -/
def Instr.wellFormed (nch : Nat) : Instr → Bool
  | .nop => true
  | .fft n => sizeFieldLegal n
  | .dct2 n => sizeFieldLegal n
  | .dct3 n => sizeFieldLegal n
  | .dct4 n => sizeFieldLegal n
  | .dst2 n => sizeFieldLegal n
  | .dst4 n => sizeFieldLegal n
  | .ainit ch _ => decide (ch.toNat < nch)
  | .qmfa ch kx => decide (ch.toNat < nch) && decide (kx.toNat ≤ 32)
  | .sinit ch _ => decide (ch.toNat < nch)
  | .qmfs ch nb => decide (ch.toNat < nch) && decide (nb.toNat ≤ 64)

end Sys2Proof
end

