-- ==== Sys2Proof/Safety.lean ====
section
/-!
DEFINITION. Safety.lean: what holds of every state a run reaches (spec/10_state.md R53), and what it is for a command to
leave a part of the state as it was (R23), in the terms the statements use.
-/

namespace Sys2Proof.Machine

/-- The bits of one channel's contexts agree (R53): a context that is not valid has mode 0, and `vidx` 0; a synthesis
context in LP mode has `vidx` 0. -/
abbrev Channel.Consistent (ch : Channel) : Prop :=
  (ch.ana.valid = false → ch.ana.mode = .hq) ∧
  (ch.syn.valid = false → ch.syn.mode = .hq ∧ ch.syn.vidx = 0) ∧
  (ch.syn.mode = .lp → ch.syn.vidx = 0)

/-- The invariants of R53, with the range of `NCH` (R8). That no bit of `CTXVALID`, `CTXMODE` or `VIDX` above `NCH` is
set, and that arrays keep their sizes, hold of every state by the types. -/
abbrev State.Inv (s : State) : Prop :=
  (1 ≤ s.nch ∧ s.nch ≤ Config.maxNch) ∧
  (s.fault = false → s.errcode = 0#4 ∧ s.faultcmd = 0#32) ∧
  (s.fault = true → 1 ≤ s.errcode.toNat ∧ s.errcode.toNat ≤ 6) ∧
  ∀ ch ∈ s.channels, ch.Consistent

/-- A safe state: the block is not stopped by a fault, so it still takes commands (R15, R67). -/
abbrev State.Running (s : State) : Prop := s.fault = false

/-- The operand buffers are as before (R21). -/
abbrev State.SameOperands (s t : State) : Prop := t.xre = s.xre ∧ t.xim = s.xim

/-- The result buffers are as before. -/
abbrev State.SameResults (s t : State) : Prop := t.yre = s.yre ∧ t.yim = s.yim

/-- The flag `FAULT` and the fault record are as before. -/
abbrev State.SameFault (s t : State) : Prop :=
  t.fault = s.fault ∧ t.errcode = s.errcode ∧ t.faultcmd = s.faultcmd

/-- The parameters `NCH` and `PROTO` are as before (R8). -/
abbrev State.SameParams (s t : State) : Prop := t.nch = s.nch ∧ t.proto = s.proto

/-- What the host does next and has read so far is as before. -/
abbrev State.SamePins (s t : State) : Prop := t.port = s.port ∧ t.replies = s.replies

/-- Every context but those of channel `c` is as before (R23). -/
abbrev State.SameOtherChannels (c : Nat) (s t : State) : Prop :=
  t.nch = s.nch ∧ ∀ d, d ≠ c → t.channels[d]? = s.channels[d]?

/-- Every offset of the window outside `touched` reads as before (R63). -/
abbrev State.ReadsAsBefore (touched : Nat → Prop) (s t : State) : Prop :=
  ∀ off, ¬ touched off → busRead t off = busRead s off

/-- The byte offsets of the first `n` words of a buffer at `base` (R62). -/
abbrev bufferOffsets (base n : Nat) (off : Nat) : Prop := base ≤ off ∧ off < base + 4 * n

end Sys2Proof.Machine
end

