-- ==== Sys2Proof/Certificates/Slice0/Obligations.lean ====
section
/-!
DEFINITION. Certificates/Slice0/Obligations.lean: the statements for the provers, in the order of OBLIGATIONS.json.
Each docstring says which rules of spec/ it is about.
-/

open Sys2Proof
open Sys2Proof.Machine

/-! The words the statements share. -/

namespace Sys2Proof.Stating

/-- The six transform commands with the size field `n`. -/
def transforms (n : BitVec 8) : List Instr := [.fft n, .dct2 n, .dct3 n, .dct4 n, .dst2 n, .dst4 n]

/-- `A[c].valid`, false where there is no context `c`. -/
def anaValid (s : State) (c : Nat) : Bool := (s.channels[c]?).any (·.ana.valid)

/-- `S[c].valid`, false where there is no context `c`. -/
def synValid (s : State) (c : Nat) : Bool := (s.channels[c]?).any (·.syn.valid)

/-- `A[c].mode` as a bit. -/
def anaMode (s : State) (c : Nat) : Bool := (s.channels[c]?).any (·.ana.mode.toBit)

/-- `S[c].mode` as a bit. -/
def synMode (s : State) (c : Nat) : Bool := (s.channels[c]?).any (·.syn.mode.toBit)

/-- `S[c].vidx` as a bit. -/
def synVidx (s : State) (c : Nat) : Bool := (s.channels[c]?).any fun ch => decide (ch.syn.vidx = 1)

/-- The offsets that R62 does not list. -/
def reservedOffset (off : Nat) : Prop := (0x020 ≤ off ∧ off < 0x400) ∨ 0x800 ≤ off

/-- The cause that R91 gives a command word, written out from its seven steps over the word's number. -/
def causeOfR91 (s : State) (w : Word) : Option Cause :=
  let opc := w.toNat % 16
  let ch := w.toNat / 16 % 16
  let n := w.toNat / 256 % 256
  let arg := w.toNat / 65536 % 256
  let rs := w.toNat / 16777216
  if opc = 7 ∨ opc = 12 ∨ opc = 13 ∨ opc = 14 ∨ opc = 15 then some .opc
  else if rs ≠ 0 then some .enc
  else if opc = 0 then (if ch ≠ 0 ∨ n ≠ 0 ∨ arg ≠ 0 then some .enc else none)
  else if opc ≤ 6 then
    (if ch ≠ 0 ∨ arg ≠ 0 then some .enc
     else if n = 16 ∨ n = 32 ∨ n = 64 then none
     else some .size)
  else if opc = 8 ∨ opc = 10 then
    (if n ≠ 0 ∨ arg / 2 ≠ 0 then some .enc
     else if s.nch ≤ ch then some .chan
     else none)
  else if opc = 9 then
    (if n ≠ 0 then some .enc
     else if s.nch ≤ ch then some .chan
     else if 32 < arg then some .arg
     else if anaValid s ch = false then some .uninit
     else none)
  else
    (if n ≠ 0 then some .enc
     else if s.nch ≤ ch then some .chan
     else if 64 < arg then some .arg
     else if synValid s ch = false then some .uninit
     else none)

/-- The command that R91 runs for a word that passes its checks, with the operands R91 gives it. -/
def commandOfR91 (w : Word) : Instr :=
  let ch := BitVec.ofNat 4 (w.toNat / 16)
  let n := BitVec.ofNat 8 (w.toNat / 256)
  let arg := BitVec.ofNat 8 (w.toNat / 65536)
  let mode := if w.toNat / 65536 % 2 = 1 then Mode.lp else Mode.hq
  match w.toNat % 16 with
  | 1 => .fft n
  | 2 => .dct2 n
  | 3 => .dct3 n
  | 4 => .dct4 n
  | 5 => .dst2 n
  | 6 => .dst4 n
  | 8 => .ainit ch mode
  | 9 => .qmfa ch arg
  | 10 => .sinit ch mode
  | 11 => .qmfs ch arg
  | _ => .nop

/-- The command `mk n` runs the engine `engine` (R176): it completes, stores the engine's `N` words in `YRE`, adds the
engine's overflow mark to `OVF`, and leaves everything else. -/
def EngineRuns (mk : BitVec 8 → Instr) (engine : Size → List Word → Marked (List Word)) : Prop :=
  ∀ (s : State) (n : BitVec 8) (sz : Size), n.toNat = sz.points →
    ∃ t, exec (mk n) s = .next t ∧
      (∀ k, k < sz.points → entry t.yre k = wordAt (engine sz (operand s.xre sz.points)).val k) ∧
      (∀ k, sz.points ≤ k → k < 64 → entry t.yre k = entry s.yre k) ∧
      t.ovf = (s.ovf || (engine sz (operand s.xre sz.points)).mark) ∧
      t = { s with yre := t.yre, ovf := t.ovf } ∧
      s.ReadsAsBefore (fun off => off = Config.offStatus ∨ bufferOffsets Config.offYre sz.points off) t

/-- An exact value that `WR` finds outside `s32` (R121). -/
def leaves (v : Int) : Prop := v < -2147483648 ∨ 2147483647 < v

/-- An exact accumulator that `RND(·, 30)` finds outside `s32` once it is rounded (R122). -/
def roundsOut (a : Int) : Prop := leaves ((a + 536870912) / 1073741824)

/-- The butterfly `(p, q, j)` on the work arrays `w` applies `WR` or `RND` to a value outside `s32` (R152): one of the
two sums, of the two differences, or of the two components of the rotation of the wrapped differences. -/
def butterflyLeaves (w : Work) (b : Nat × Nat × Nat) : Prop :=
  let ar := (wordAt w.re b.1).toInt
  let ai := (wordAt w.im b.1).toInt
  let br := (wordAt w.re b.2.1).toInt
  let bi := (wordAt w.im b.2.1).toInt
  let dr := (wrap32 (ar - br)).toInt
  let di := (wrap32 (ai - bi)).toInt
  leaves (ar + br) ∨ leaves (ai + bi) ∨ leaves (ar - br) ∨ leaves (ai - bi) ∨
    roundsOut (dr * twc b.2.2 + di * tws b.2.2) ∨ roundsOut (di * twc b.2.2 - dr * tws b.2.2)

/-- The butterflies `(p, q, j)` of `FFTCORE` of `2^b` points, in the order of the loops of R153. -/
def coreButterflies (b : Nat) : List (Nat × Nat × Nat) :=
  (List.range b).flatMap fun s =>
    let span := 2 ^ (b - 1 - s)
    (List.range (2 ^ s)).flatMap fun g =>
      (List.range span).map fun k => (2 * span * g + k, 2 * span * g + k + span, k * (256 / span))

/-- The work arrays after a list of butterflies. -/
def runButterflies (l : List (Nat × Nat × Nat)) (w : Work) : Work :=
  l.foldl (fun w b => butterfly w b.1 b.2.1 b.2.2) w

/-- `FFTCORE` of `2^b` points on `re`, `im` meets a butterfly that applies `WR` or `RND` to a value outside `s32`, on the
words that the butterflies before it have left. -/
def coreLeaves (b : Nat) (re im : List Word) : Prop :=
  ∃ l₁ x l₂, coreButterflies b = l₁ ++ x :: l₂ ∧
    butterflyLeaves (runButterflies l₁ { re := re, im := im, mark := false }) x

/-- A history after a sequence of HQ slots whose blocks are `vs`, the earliest first, and the `vidx` they leave
(R236). -/
def hqSlots (h : Vector Word 1280) (a : Fin 2) : List (List Word) → Vector Word 1280 × Fin 2
  | [] => (h, a)
  | v :: vs => hqSlots (hqHistory h a v) (1 - a) vs

/-- Two states that differ at most in the histories of contexts that are not valid. -/
def SameButUnseen (s s' : State) : Prop :=
  s' = { s with channels := s'.channels } ∧
  s'.channels.length = s.channels.length ∧
  ∀ (c : Nat) (ch ch' : Channel), s.channels[c]? = some ch → s'.channels[c]? = some ch' →
    ch'.ana = { ch.ana with hist := ch'.ana.hist } ∧
    ch'.syn = { ch.syn with hist := ch'.syn.hist } ∧
    (ch.ana.valid = true → ch'.ana.hist = ch.ana.hist) ∧
    (ch.syn.valid = true → ch'.syn.hist = ch.syn.hist)

/-- A word as a real number. -/
noncomputable def real (w : Word) : ℝ := (w.toInt : ℝ)

/-- The datum `w` has magnitude at most `b`. -/
def atMost (b : Int) (w : Word) : Prop := -b ≤ w.toInt ∧ w.toInt ≤ b

/-- The history of a synthesis context holds the reference history `W` of R232 within `e`. In LP mode every entry does.
In HQ mode region `1 - vidx`, which gave the latest output, holds the entries that R232 reads, and region `vidx`, which
gives the next, those that it reads one slot later (R236, R245). -/
def followsReference (y : SynCtx) (W : Nat → ℝ) (e : ℝ) : Prop :=
  match y.mode with
  | .lp => ∀ i, i < 1280 → |real (entry y.hist i) - W i| ≤ e
  | .hq =>
    ∀ j k, j < 5 → k < 64 →
      |real (entry y.hist (640 * (1 - y.vidx).val + (128 * j + k))) - W (256 * j + k)| ≤ e ∧
      |real (entry y.hist (640 * (1 - y.vidx).val + (128 * j + 64 + k))) - W (256 * j + 192 + k)| ≤ e ∧
      |real (entry y.hist (640 * y.vidx.val + (128 * j + k))) - W (256 * j + 64 + k)| ≤ e ∧
      |real (entry y.hist (640 * y.vidx.val + (128 * j + 64 + k))) - W (256 * j + 128 + k)| ≤ e

end Sys2Proof.Stating

open Sys2Proof.Stating

/-! Encoding. -/

/-- R93 to R96: every command, with every value of its fields, decodes from its own word. -/
def Obligations.EncodedCommandDecodesToItself : Prop :=
  ∀ i : Instr, decode (encode i) = .ok i

/-- R90, R98: a word that decodes is the word of the command it decodes to, so no bit of it is dropped, and
`FAULTCMD` (R276) records the word that was written. -/
def Obligations.DecodedWordIsTheEncodedCommand : Prop :=
  ∀ (w : Word) (i : Instr), decode w = .ok i → encode i = w

/-- R98: a word selects at most one row of the opcode table; it decodes exactly where it selects one, to a command of
that row; a word that selects none is `E_OPC` or `E_ENC` by its bits 3:0. -/
def Obligations.DecoderSelectsTheOpcodeRow : Prop :=
  ∀ w : Word,
    (∀ r ∈ opcodeRows, ∀ r' ∈ opcodeRows, r.matchesWord w = true → r'.matchesWord w = true → r = r') ∧
    (∀ r ∈ opcodeRows, r.matchesWord w = true → ∃ i, decode w = .ok i ∧ i.mnemonic = r.mnemonic) ∧
    ((∀ r ∈ opcodeRows, r.matchesWord w = false) →
      decode w = .error
        (if w.toNat % 16 = 7 ∨ w.toNat % 16 = 12 ∨ w.toNat % 16 = 13 ∨ w.toNat % 16 = 14 ∨ w.toNat % 16 = 15
         then .opc else .enc))

/-- R93 to R96: words written out from the encodings decode to the commands they stand for. -/
def Obligations.WordsOfTheEncodingsDecode : Prop :=
  decode 0b00000000000000000000000000000000#32 = .ok .nop ∧
  decode 0b00000000000000000001000000000001#32 = .ok (.fft 16#8) ∧
  decode 0b00000000000000000010000000000100#32 = .ok (.dct4 32#8) ∧
  decode 0b00000000000000000100000000000110#32 = .ok (.dst4 64#8) ∧
  decode 0b00000000000000010000000000011000#32 = .ok (.ainit 1#4 .lp) ∧
  decode 0b00000000001000000000000000011001#32 = .ok (.qmfa 1#4 32#8) ∧
  decode 0b00000000000000000000000011111010#32 = .ok (.sinit 15#4 .hq) ∧
  decode 0b00000000010000000000000000001011#32 = .ok (.qmfs 0#4 64#8)

/-- R100: each command mnemonic of the host notation writes, to `CMD`, the word that encodes the command. -/
def Obligations.AssemblerWritesTheEncodedCommand : Prop :=
  Asm.nop = commandWrite (encode .nop) ∧
  (∀ n : BitVec 8,
    Asm.fft n.toNat = commandWrite (encode (.fft n)) ∧
    Asm.dct2 n.toNat = commandWrite (encode (.dct2 n)) ∧
    Asm.dct3 n.toNat = commandWrite (encode (.dct3 n)) ∧
    Asm.dct4 n.toNat = commandWrite (encode (.dct4 n)) ∧
    Asm.dst2 n.toNat = commandWrite (encode (.dst2 n)) ∧
    Asm.dst4 n.toNat = commandWrite (encode (.dst4 n))) ∧
  (∀ (c : BitVec 4) (m : Mode),
    Asm.ainit c.toNat m = commandWrite (encode (.ainit c m)) ∧
    Asm.sinit c.toNat m = commandWrite (encode (.sinit c m))) ∧
  (∀ (c : BitVec 4) (k : BitVec 8),
    Asm.qmfa c.toNat k.toNat = commandWrite (encode (.qmfa c k)) ∧
    Asm.qmfs c.toNat k.toNat = commandWrite (encode (.qmfs c k)))

/-! The step and the bus. -/

/-- R14, R34, R64: a step takes the earliest event at the pins to completion: a read gives its word to the host and
changes nothing else, a write is `BusWrite`, and without an event nothing changes. While `FAULT = 0` a write to `CMD` of
a word that decodes is `exec` of the command on the state with the write taken off the host's list. That list and the
list of replies are the model's own (log entry 2). -/
def Obligations.StepRunsTheDecodedCommand : Prop :=
  (∀ s : State, s.port = [] → step s = .next s) ∧
  (∀ (s : State) (a : WordAddr) (rest : List HostEvent), s.port = .read a :: rest →
    step s = .next { s with port := rest, replies := busRead s a.offset :: s.replies }) ∧
  (∀ (s : State) (a : WordAddr) (v : Word) (rest : List HostEvent), s.port = .write a v :: rest →
    step s = busWrite a.offset v { s with port := rest }) ∧
  (∀ (s : State) (w : Word) (i : Instr) (rest : List HostEvent),
    s.fault = false → s.port = commandWrite w :: rest → decode w = .ok i →
      step s = exec i { s with port := rest }) ∧
  (∀ (s : State) (w : Word) (i : Instr),
    s.fault = false → decode w = .ok i → step (s.withFetchWord 32 w.toNat) = exec i s)

/-- R276: the fault entry writes `FAULT`, `ERRCODE` (with the codes of R271) and `FAULTCMD` and nothing else; a word
that selects no row takes it, with that word in `FAULTCMD`. -/
def Obligations.FaultEntryWritesTheFaultRecordOnly : Prop :=
  (∀ (s : State) (c : Cause) (w : Word),
    (s.raiseFault c w).fault = true ∧ (s.raiseFault c w).faultcmd = w ∧
    (s.raiseFault c w).errcode.toNat =
      (match c with | .opc => 1 | .enc => 2 | .size => 3 | .chan => 4 | .arg => 5 | .uninit => 6) ∧
    s.raiseFault c w = { s with
      fault := true, errcode := (s.raiseFault c w).errcode, faultcmd := w } ∧
    s.ReadsAsBefore (fun off => off = Config.offStatus ∨ off = Config.offFaultCmd) (s.raiseFault c w) ∧
    (s.raiseFault c w).faultOut = true) ∧
  (∀ (s : State) (w : Word) (c : Cause), s.fault = false → decode w = .error c →
    busWrite 0x00C w s = .next (s.raiseFault c w))

/-- R91: for every command word, written to `CMD` while `FAULT = 0`, the first failing check of R91 decides the cause
and the block changes only the fault record; where no check fails the command R91 names runs to completion and raises
no fault. -/
def Obligations.CommandWordRunsOrFaultsAsR91Orders : Prop :=
  ∀ (s : State) (w : Word), s.fault = false →
    match causeOfR91 s w with
    | some c => busWrite 0x00C w s = .next (s.raiseFault c w)
    | none =>
      busWrite 0x00C w s = exec (commandOfR91 w) s ∧
      ∃ t, exec (commandOfR91 w) s = .next t ∧ s.SameFault t

/-- R67: while `FAULT = 1` every write is ignored, whatever its offset, and reads continue to work: but for `STATUS`,
which shows the fault, every offset reads as it would without the fault. -/
def Obligations.FaultedBlockIgnoresEveryWrite : Prop :=
  ∀ s : State, s.fault = true →
    (∀ off v, busWrite off v s = .next s) ∧
    (∀ off, off ≠ 0x008 → busRead s off = busRead { s with fault := false } off) ∧
    (busRead s 0x008).getLsbD 0 = true ∧ (busRead s 0x008).extractLsb' 4 4 = s.errcode

/-- R63: what a read of each offset returns, in every state, so with `FAULT` 0 or 1. That it has no effect on the state
is in the type of `busRead`, and in the statement on the step. -/
def Obligations.BusReadReturnsTheMappedWord : Prop :=
  ∀ s : State, s.nch ≤ 16 →
    busRead s 0x000 = 0x514D4607#32 ∧
    (busRead s 0x004).toNat = s.nch ∧
    (busRead s 0x008).toNat = s.fault.toNat + 2 * s.ovf.toNat + 16 * s.errcode.toNat ∧
    busRead s 0x00C = 0#32 ∧
    busRead s 0x010 = s.faultcmd ∧
    (busRead s 0x014).toNat = ∑ c ∈ Finset.range s.nch,
      ((anaValid s c).toNat * 2 ^ c + (synValid s c).toNat * 2 ^ (16 + c)) ∧
    (busRead s 0x018).toNat = ∑ c ∈ Finset.range s.nch,
      ((anaMode s c).toNat * 2 ^ c + (synMode s c).toNat * 2 ^ (16 + c)) ∧
    (busRead s 0x01C).toNat = ∑ c ∈ Finset.range s.nch, (synVidx s c).toNat * 2 ^ c ∧
    (∀ i : Fin 64,
      busRead s (0x400 + 4 * i.val) = s.xre[i] ∧ busRead s (0x500 + 4 * i.val) = s.xim[i] ∧
      busRead s (0x600 + 4 * i.val) = s.yre[i] ∧ busRead s (0x700 + 4 * i.val) = s.yim[i]) ∧
    (∀ off, reservedOffset off → busRead s off = 0#32)

/-- R65, R66 and the write column of R33: a write to a reserved offset, to a read-only register or to a result buffer
has no effect; a write to `STATUS` has none but to clear `OVF` where bit 1 is 1 and `FAULT = 0`; a reserved offset
reads 0. -/
def Obligations.ReservedAndReadOnlyOffsetsIgnoreWrites : Prop :=
  ∀ (s : State) (off : Nat) (v : Word),
    (off ≠ 0x008 → off ≠ 0x00C → ¬ (0x400 ≤ off ∧ off < 0x600) → busWrite off v s = .next s) ∧
    (off = 0x008 → busWrite off v s =
      .next { s with ovf := if v.getLsbD 1 = true ∧ s.fault = false then false else s.ovf }) ∧
    (reservedOffset off → busRead s off = 0#32)

/-- R64, R70: a write to `XRE[i]` or `XIM[i]` while `FAULT = 0` stores the word there and changes nothing else, and the
next read of that offset returns it. -/
def Obligations.OperandWriteStoresTheWord : Prop :=
  ∀ (s : State) (i : Fin 64) (v : Word), s.fault = false →
    (∃ t, busWrite (0x400 + 4 * i.val) v s = .next t ∧ t = { s with xre := t.xre } ∧ t.xre[i] = v ∧
      (∀ j : Fin 64, j ≠ i → t.xre[j] = s.xre[j]) ∧ busRead t (0x400 + 4 * i.val) = v ∧
      s.ReadsAsBefore (fun off => bufferOffsets (0x400 + 4 * i.val) 1 off) t) ∧
    (∃ t, busWrite (0x500 + 4 * i.val) v s = .next t ∧ t = { s with xim := t.xim } ∧ t.xim[i] = v ∧
      (∀ j : Fin 64, j ≠ i → t.xim[j] = s.xim[j]) ∧ busRead t (0x500 + 4 * i.val) = v ∧
      s.ReadsAsBefore (fun off => bufferOffsets (0x500 + 4 * i.val) 1 off) t)

/-- R33: the bits of `STATUS`. In a state that keeps the invariants of R53, `ERRCODE` reads 0 when `FAULT = 0` and is a
cause code when `FAULT = 1`. -/
def Obligations.StatusReadsItsFields : Prop :=
  ∀ s : State,
    (busRead s 0x008).getLsbD 0 = s.fault ∧
    (busRead s 0x008).getLsbD 1 = s.ovf ∧
    (busRead s 0x008).extractLsb' 2 2 = 0#2 ∧
    (busRead s 0x008).extractLsb' 4 4 = s.errcode ∧
    (busRead s 0x008).extractLsb' 8 24 = 0#24 ∧
    (s.Inv → s.fault = false → (busRead s 0x008).extractLsb' 4 4 = 0#4) ∧
    (s.Inv → s.fault = true →
      1 ≤ ((busRead s 0x008).extractLsb' 4 4).toNat ∧ ((busRead s 0x008).extractLsb' 4 4).toNat ≤ 6)

/-- R36, R37, R38: bit `c` and bit `16 + c` of the three context registers; every other bit reads 0. -/
def Obligations.ContextRegistersReadOneBitPerContext : Prop :=
  ∀ s : State, s.nch ≤ 16 →
    (∀ c, c < s.nch →
      (busRead s 0x014).getLsbD c = anaValid s c ∧ (busRead s 0x014).getLsbD (16 + c) = synValid s c ∧
      (busRead s 0x018).getLsbD c = anaMode s c ∧ (busRead s 0x018).getLsbD (16 + c) = synMode s c ∧
      (busRead s 0x01C).getLsbD c = synVidx s c) ∧
    (∀ b, ¬ (b < s.nch) → ¬ (16 ≤ b ∧ b < 16 + s.nch) →
      (busRead s 0x014).getLsbD b = false ∧ (busRead s 0x018).getLsbD b = false) ∧
    (∀ b, ¬ (b < s.nch) → (busRead s 0x01C).getLsbD b = false)

/-! Reset and the whole machine. -/

/-- R52, R310: what a reset leaves. Nothing is said of the histories, which R52 leaves unspecified. That the host's
lists survive it is the model's choice (log entry 5). -/
def Obligations.ResetLeavesTheStatedValues : Prop :=
  ∀ (s : State) (rest : List HostEvent), s.port = .reset :: rest →
    ∃ t, step s = .next t ∧
      (∀ i, i < 64 → entry t.xre i = 0#32 ∧ entry t.xim i = 0#32 ∧ entry t.yre i = 0#32 ∧ entry t.yim i = 0#32) ∧
      t.fault = false ∧ t.ovf = false ∧ t.errcode = 0#4 ∧ t.faultcmd = 0#32 ∧
      s.SameParams t ∧ t.port = rest ∧ t.replies = s.replies ∧
      (∀ ch ∈ t.channels,
        ch.ana.valid = false ∧ ch.ana.mode = .hq ∧ ch.syn.valid = false ∧ ch.syn.mode = .hq ∧ ch.syn.vidx = 0)

/-- R53 at reset, for every legal `NCH` and every `PROTO`. The `NCH` of `State.reset` is the model's choice (log
entry 1). -/
def Obligations.ResetSatisfiesTheInvariants : Prop :=
  (∀ (nch : Nat) (proto : Vector Word 640), 1 ≤ nch → nch ≤ 16 → (State.resetWith nch proto).Inv) ∧
  State.reset.Inv

/-- R53: from every state with the invariants, every step leads to one with them. -/
def Obligations.StepKeepsTheInvariants : Prop :=
  ∀ s t : State, s.Inv → step s = .next t → t.Inv

/-- R15, R60, R98: the machine never stops. From every state, whatever the host does next, the step answers a next
state, so there is no undefined encoding, no failing access and no hang. -/
def Obligations.EveryStepAnswersANextState : Prop :=
  ∀ s : State, ∃ t, step s = .next t

/-- R271, R273: the checks of the meanings in the order of R91 steps 4 to 7, each with the fault it raises. -/
def Obligations.FieldChecksRaiseTheirFaults : Prop :=
  (∀ (s : State) (n : BitVec 8), n.toNat ≠ 16 → n.toNat ≠ 32 → n.toNat ≠ 64 →
    ∀ i ∈ transforms n, exec i s = .next (s.raiseFault .size (encode i))) ∧
  (∀ (s : State) (c : BitVec 4) (m : Mode) (k : BitVec 8), s.nch ≤ c.toNat →
    ∀ i ∈ [Instr.ainit c m, Instr.sinit c m, Instr.qmfa c k, Instr.qmfs c k],
      exec i s = .next (s.raiseFault .chan (encode i))) ∧
  (∀ (s : State) (c : BitVec 4) (k : BitVec 8), c.toNat < s.nch →
    (32 < k.toNat → exec (.qmfa c k) s = .next (s.raiseFault .arg (encode (.qmfa c k)))) ∧
    (64 < k.toNat → exec (.qmfs c k) s = .next (s.raiseFault .arg (encode (.qmfs c k))))) ∧
  (∀ (s : State) (c : BitVec 4) (k : BitVec 8), c.toNat < s.nch →
    (k.toNat ≤ 32 → anaValid s c.toNat = false →
      exec (.qmfa c k) s = .next (s.raiseFault .uninit (encode (.qmfa c k)))) ∧
    (k.toNat ≤ 64 → synValid s c.toNat = false →
      exec (.qmfs c k) s = .next (s.raiseFault .uninit (encode (.qmfs c k)))))

/-! What each command does. -/

/-- R260: `NOP` completes and changes nothing; a word of operation code 0 with any other bit set is `E_ENC`; while
`FAULT = 1` it is ignored. -/
def Obligations.NopChangesNothing : Prop :=
  (∀ s : State, exec .nop s = .next s) ∧
  (∀ w : Word, w.toNat % 16 = 0 → w ≠ 0#32 → decode w = .error .enc) ∧
  (∀ s : State, busWrite 0x00C 0#32 s = .next s)

/-- R150: `FFT N` completes for the three sizes, with the core's result read out through the bit reversal, and writes
`YRE[0..N-1]`, `YIM[0..N-1]` and `OVF` only. `OVF` is set if a butterfly of the core finds a value outside `s32`
(R28, R124). -/
def Obligations.FftStoresTheTransform : Prop :=
  ∀ (s : State) (n : BitVec 8) (sz : Size), n.toNat = sz.points →
    let w := fftCore sz.bits { re := operand s.xre sz.points, im := operand s.xim sz.points, mark := false }
    ∃ t, exec (.fft n) s = .next t ∧
      (∀ k, k < sz.points →
        entry t.yre k = wordAt w.re (bitrev sz.bits k) ∧ entry t.yim k = wordAt w.im (bitrev sz.bits k)) ∧
      (∀ k, sz.points ≤ k → k < 64 → entry t.yre k = entry s.yre k ∧ entry t.yim k = entry s.yim k) ∧
      (t.ovf = true ↔ s.ovf = true ∨ coreLeaves sz.bits (operand s.xre sz.points) (operand s.xim sz.points)) ∧
      t = { s with yre := t.yre, yim := t.yim, ovf := t.ovf } ∧
      s.ReadsAsBefore (fun off => off = Config.offStatus ∨ bufferOffsets Config.offYre sz.points off ∨
        bufferOffsets Config.offYim sz.points off) t

/-- R171 to R176: `DCT2`, `DCT3`, `DCT4`, `DST2` and `DST4` complete for the three sizes, each with its own engine. When
an engine's overflow mark is set is in the statements on the engines. -/
def Obligations.TransformCommandsRunTheirEngines : Prop :=
  EngineRuns .dct2 dct2 ∧ EngineRuns .dct3 dct3 ∧ EngineRuns .dct4 dct4 ∧ EngineRuns .dst2 dst2 ∧
  EngineRuns .dst4 dst4

/-- R201: `AINIT c, m` completes for every context of the block, valid or not: the history is 0, the mode `m`, the
context valid, and nothing else changes. -/
def Obligations.AinitConstructsTheContext : Prop :=
  ∀ (s : State) (c : BitVec 4) (m : Mode) (ch : Channel), s.channels[c.toNat]? = some ch →
    ∃ t a, exec (.ainit c m) s = .next t ∧
      t.channels[c.toNat]? = some { ch with ana := a } ∧
      (∀ i, i < 320 → entry a.hist i = 0#32) ∧ a.mode = m ∧ a.valid = true ∧
      s.SameOtherChannels c.toNat t ∧
      t = { s with channels := t.channels } ∧
      s.ReadsAsBefore (fun off => off = Config.offCtxValid ∨ off = Config.offCtxMode) t

/-- R231: `SINIT c, m` completes for every context of the block, valid or not: all 1280 words are 0 in both modes,
`vidx` 0, the mode `m`, the context valid, and nothing else changes. -/
def Obligations.SinitConstructsTheContext : Prop :=
  ∀ (s : State) (c : BitVec 4) (m : Mode) (ch : Channel), s.channels[c.toNat]? = some ch →
    ∃ t y, exec (.sinit c m) s = .next t ∧
      t.channels[c.toNat]? = some { ch with syn := y } ∧
      (∀ i, i < 1280 → entry y.hist i = 0#32) ∧ y.vidx = 0 ∧ y.mode = m ∧ y.valid = true ∧
      s.SameOtherChannels c.toNat t ∧
      t = { s with channels := t.channels } ∧
      s.ReadsAsBefore
        (fun off => off = Config.offCtxValid ∨ off = Config.offCtxMode ∨ off = Config.offVidx) t

/-- R203, R204, R208: `QMFA c, kx` completes on a constructed context for every `kx` up to 32: the 32 samples move into
the history, the bands below `kx` are the low-power or the high-quality modulation of the windowed sums, as the context's
mode says, those at and above it are 0, and nothing else changes. `OVF` is set if a windowed sum or a step of that
modulation leaves `s32`, whatever `kx` is. -/
def Obligations.QmfaStoresOneFrame : Prop :=
  ∀ (s : State) (c : BitVec 4) (kx : BitVec 8) (ch : Channel),
    s.channels[c.toNat]? = some ch → ch.ana.valid = true → kx.toNat ≤ 32 →
    ∃ t h, exec (.qmfa c kx) s = .next t ∧
      t.channels[c.toNat]? = some { ch with ana := { ch.ana with hist := h } } ∧
      (∀ j, j < 32 → entry h (31 - j) = entry s.xre j) ∧
      (∀ i, 32 ≤ i → i < 320 → entry h i = entry ch.ana.hist (i - 32)) ∧
      (∀ k, k < kx.toNat →
        (ch.ana.mode = .lp → entry t.yre k = wordAt (amodLp (awindow s.proto h).val).re k ∧ entry t.yim k = 0#32) ∧
        (ch.ana.mode = .hq → entry t.yre k = wordAt (amodHq (awindow s.proto h).val).re k ∧
          entry t.yim k = wordAt (amodHq (awindow s.proto h).val).im k)) ∧
      (∀ k, kx.toNat ≤ k → k < 32 → entry t.yre k = 0#32 ∧ entry t.yim k = 0#32) ∧
      (∀ k, 32 ≤ k → k < 64 → entry t.yre k = entry s.yre k ∧ entry t.yim k = entry s.yim k) ∧
      (t.ovf = true ↔ s.ovf = true ∨
        (∃ n, n < 64 ∧ roundsOut (∑ k ∈ Finset.range 5,
          (entry h (n + 64 * k)).toInt * (entry s.proto (2 * (n + 64 * k))).toInt)) ∨
        (ch.ana.mode = .lp ∧ (amodLp (awindow s.proto h).val).mark = true) ∨
        (ch.ana.mode = .hq ∧ (amodHq (awindow s.proto h).val).mark = true)) ∧
      s.SameOtherChannels c.toNat t ∧
      t = { s with channels := t.channels, yre := t.yre, yim := t.yim, ovf := t.ovf } ∧
      s.ReadsAsBefore (fun off => off = Config.offStatus ∨ bufferOffsets Config.offYre 32 off ∨
        bufferOffsets Config.offYim 32 off) t

/-- R233, R236, R237: `QMFS c, nb` completes on a constructed HQ context for every `nb` up to 64: both regions age by 64,
the region that `vidx` pointed to takes the first half of the new block and gives the 64 outputs, the other takes the
second half, `vidx` moves to the other, and nothing else changes. `OVF` is set if a step of one of the two transforms, the
combination or an output leaves `s32`. -/
def Obligations.QmfsHqStoresOneSlot : Prop :=
  ∀ (s : State) (c : BitVec 4) (nb : BitVec 8) (ch : Channel),
    s.channels[c.toNat]? = some ch → ch.syn.valid = true → ch.syn.mode = .hq → nb.toNat ≤ 64 →
    let a := ch.syn.vidx.val
    let y1 := dct4 .n64 (hqX1 s.xre nb.toNat)
    let y2 := dct4 .n64 (hqX2 s.xim nb.toNat)
    let v := hqCombine y1.val y2.val
    ∃ t h b, exec (.qmfs c nb) s = .next t ∧
      b.val = (a + 1) % 2 ∧
      t.channels[c.toNat]? = some { ch with syn := { ch.syn with hist := h, vidx := b } } ∧
      (∀ r i, r < 2 → 64 ≤ i → i < 640 → entry h (640 * r + i) = entry ch.syn.hist (640 * r + i - 64)) ∧
      (∀ i, i < 64 → entry h (640 * a + i) = wordAt v.val i ∧ entry h (640 * b.val + i) = wordAt v.val (64 + i)) ∧
      (∀ k, k < 64 → entry t.yre k =
        (rnd (∑ j ∈ Finset.range 10,
          (entry h (640 * a + (64 * j + k))).toInt * (entry s.proto (64 * j + k)).toInt) 30).val) ∧
      (t.ovf = true ↔ s.ovf = true ∨ y1.mark = true ∨ y2.mark = true ∨ v.mark = true ∨
        ∃ k, k < 64 ∧ roundsOut (∑ j ∈ Finset.range 10,
          (entry h (640 * a + (64 * j + k))).toInt * (entry s.proto (64 * j + k)).toInt)) ∧
      s.SameOtherChannels c.toNat t ∧
      t = { s with channels := t.channels, yre := t.yre, ovf := t.ovf } ∧
      s.ReadsAsBefore (fun off => off = Config.offStatus ∨ off = Config.offVidx ∨
        bufferOffsets Config.offYre 64 off) t

/-- R233, R239, R240, R241: `QMFS c, nb` completes on a constructed LP context for every `nb` up to 64: the history ages by
128, the new block stands in front, the 64 outputs are the ten products of R241, and `vidx` and everything else stay.
`OVF` is set if a step of one of the two transforms or an output leaves `s32`. -/
def Obligations.QmfsLpStoresOneSlot : Prop :=
  ∀ (s : State) (c : BitVec 4) (nb : BitVec 8) (ch : Channel),
    s.channels[c.toNat]? = some ch → ch.syn.valid = true → ch.syn.mode = .lp → nb.toNat ≤ 64 →
    let x := lpX s.xre nb.toNat
    let d := dct2 .n64 x
    let u := dst2 .n64 (lpYy x).val
    let v := lpScatter d.val u.val
    ∃ t h, exec (.qmfs c nb) s = .next t ∧
      t.channels[c.toNat]? = some { ch with syn := { ch.syn with hist := h } } ∧
      (∀ i, 128 ≤ i → i < 1280 → entry h i = entry ch.syn.hist (i - 128)) ∧
      (∀ i, i < 128 → entry h i = wordAt v i) ∧
      (∀ k, k < 64 → entry t.yre k =
        (rnd (∑ j ∈ Finset.range 5,
          ((entry h (256 * j + k)).toInt * (entry s.proto (128 * j + k)).toInt
            + (entry h (256 * j + 192 + k)).toInt * (entry s.proto (128 * j + 64 + k)).toInt)) 30).val) ∧
      (t.ovf = true ↔ s.ovf = true ∨ d.mark = true ∨ u.mark = true ∨
        ∃ k, k < 64 ∧ roundsOut (∑ j ∈ Finset.range 5,
          ((entry h (256 * j + k)).toInt * (entry s.proto (128 * j + k)).toInt
            + (entry h (256 * j + 192 + k)).toInt * (entry s.proto (128 * j + 64 + k)).toInt))) ∧
      s.SameOtherChannels c.toNat t ∧
      t = { s with channels := t.channels, yre := t.yre, ovf := t.ovf } ∧
      s.ReadsAsBefore (fun off => off = Config.offStatus ∨ bufferOffsets Config.offYre 64 off) t

/-! The engines, in the order of the loops of their rules. -/

/-- R171: the input permutation, the core on real data, and the real part of the post-modulation, with what sets the
overflow mark. That the imaginary parts of the last rotations do not count is DEDUCED (log entry 4). -/
def Obligations.Dct2FollowsItsDatapath : Prop :=
  ∀ (sz : Size) (x v : List Word), v.length = sz.points →
    (∀ n, n < sz.points / 2 →
      wordAt v n = wordAt x (2 * n) ∧ wordAt v (sz.points - 1 - n) = wordAt x (2 * n + 1)) →
    let w := fftCore sz.bits { re := v, im := List.replicate sz.points 0#32, mark := false }
    (dct2 sz x).val.length = sz.points ∧
    (∀ k, k < sz.points → wordAt (dct2 sz x).val k =
      (rotRe (wordAt w.re (bitrev sz.bits k)) (wordAt w.im (bitrev sz.bits k)) (k * (128 / sz.points))).val) ∧
    ((dct2 sz x).mark = true ↔ coreLeaves sz.bits v (List.replicate sz.points 0#32) ∨
      ∃ k, k < sz.points ∧ roundsOut
        ((wordAt w.re (bitrev sz.bits k)).toInt * twc (k * (128 / sz.points))
          + (wordAt w.im (bitrev sz.bits k)).toInt * tws (k * (128 / sz.points))))

/-- R172: the pre-modulation, the core, and the output permutation of the real parts, with what sets the overflow
mark. -/
def Obligations.Dct3FollowsItsDatapath : Prop :=
  ∀ (sz : Size) (x : List Word) (z : Work), z.re.length = sz.points → z.im.length = sz.points →
    (∀ k, k < sz.points →
      wordAt z.re k = (rotRe (wordAt x k) 0#32 (k * (128 / sz.points))).val ∧
      wordAt z.im k = (rotIm (wordAt x k) 0#32 (k * (128 / sz.points))).val) →
    let w := fftCore sz.bits z
    (dct3 sz x).val.length = sz.points ∧
    (∀ n, n < sz.points / 2 →
      wordAt (dct3 sz x).val (2 * n) = wordAt w.re (bitrev sz.bits n) ∧
      wordAt (dct3 sz x).val (2 * n + 1) = wordAt w.re (bitrev sz.bits (sz.points - 1 - n))) ∧
    ((dct3 sz x).mark = true ↔
      (∃ k, k < sz.points ∧
        (roundsOut ((wordAt x k).toInt * twc (k * (128 / sz.points))) ∨
          roundsOut (-((wordAt x k).toInt * tws (k * (128 / sz.points)))))) ∨
      coreLeaves sz.bits z.re z.im)

/-- R173: the pre-modulation, the core, and the bins: those below `N/2` give the even outputs, the others the odd
outputs, negated before rounding; and what sets the overflow mark. -/
def Obligations.Dct4FollowsItsDatapath : Prop :=
  ∀ (sz : Size) (x : List Word) (z : Work), z.re.length = sz.points → z.im.length = sz.points →
    (∀ n, n < sz.points →
      wordAt z.re n = (rotRe (wordAt x n) 0#32 ((2 * n + 1) * (64 / sz.points))).val ∧
      wordAt z.im n = (rotIm (wordAt x n) 0#32 ((2 * n + 1) * (64 / sz.points))).val) →
    let w := fftCore sz.bits z
    (dct4 sz x).val.length = sz.points ∧
    (∀ m, m < sz.points →
      let zr := (wordAt w.re (bitrev sz.bits m)).toInt
      let zi := (wordAt w.im (bitrev sz.bits m)).toInt
      let j := m * (256 / sz.points)
      (m < sz.points / 2 → wordAt (dct4 sz x).val (2 * m) = (rnd (zr * twc j + zi * tws j) 30).val) ∧
      (sz.points / 2 ≤ m →
        wordAt (dct4 sz x).val (2 * (sz.points - 1 - m) + 1) = (rnd (-(zr * twc j + zi * tws j)) 30).val)) ∧
    ((dct4 sz x).mark = true ↔
      (∃ n, n < sz.points ∧
        (roundsOut ((wordAt x n).toInt * twc ((2 * n + 1) * (64 / sz.points))) ∨
          roundsOut (-((wordAt x n).toInt * tws ((2 * n + 1) * (64 / sz.points)))))) ∨
      coreLeaves sz.bits z.re z.im ∨
      ∃ m, m < sz.points ∧
        let acc := (wordAt w.re (bitrev sz.bits m)).toInt * twc (m * (256 / sz.points))
          + (wordAt w.im (bitrev sz.bits m)).toInt * tws (m * (256 / sz.points))
        roundsOut (if m < sz.points / 2 then acc else -acc))

/-- R174, R175: `dst2` and `dst4` by reversal and sign alternation, and what sets their overflow marks, a negated `-2^31`
among it. -/
def Obligations.DstEnginesReverseAndAlternate : Prop :=
  (∀ (sz : Size) (x xa : List Word), xa.length = sz.points →
    (∀ n, n < sz.points → wordAt xa n = if n % 2 = 0 then wordAt x n else (wr (-(wordAt x n).toInt)).val) →
    (∀ k, k < sz.points → wordAt (dst2 sz x).val k = wordAt (dct2 sz xa).val (sz.points - 1 - k)) ∧
    ((dst2 sz x).mark = true ↔
      (∃ n, n < sz.points ∧ n % 2 = 1 ∧ leaves (-(wordAt x n).toInt)) ∨ (dct2 sz xa).mark = true)) ∧
  (∀ (sz : Size) (x xr : List Word), xr.length = sz.points →
    (∀ n, n < sz.points → wordAt xr n = wordAt x (sz.points - 1 - n)) →
    (∀ k, k < sz.points → wordAt (dst4 sz x).val k =
      if k % 2 = 0 then wordAt (dct4 sz xr).val k else (wr (-(wordAt (dct4 sz xr).val k).toInt)).val) ∧
    ((dst4 sz x).mark = true ↔ (dct4 sz xr).mark = true ∨
      ∃ k, k < sz.points ∧ k % 2 = 1 ∧ leaves (-(wordAt (dct4 sz xr).val k).toInt))) ∧
  (∀ (sz : Size) (x : List Word) (n : Nat), n < sz.points → n % 2 = 1 → wordAt x n = 0x80000000#32 →
    (dst2 sz x).mark = true)

/-! The analysis bank. -/

/-- R204, R210: a sample is in the history of ten slots and no more, so after ten slots nothing of the earlier history
is left, and entry `i` is the sample `i` places before the latest. -/
def Obligations.TenSlotsReplaceTheAnalysisHistory : Prop :=
  ∀ (h : Vector Word 320) (xs : List (Vector Word 64)), xs.length = 10 →
    ∀ t j, t < 10 → j < 32 →
      ∀ x, xs[9 - t]? = some x → entry (xs.foldl ahist h) (32 * t + (31 - j)) = entry x j

/-- R205, R206, R207: the 64 windowed sums and the sequences that the two modes hand to the kernel, in the order of the
rules' own loops, with the doubling and the output mapping, and what sets the overflow mark of each step. -/
def Obligations.AnalysisStepsFollowTheirFormulas : Prop :=
  (∀ (proto : Vector Word 640) (h : Vector Word 320),
    let sum := fun n : Nat => ∑ k ∈ Finset.range 5,
      (entry h (n + 64 * k)).toInt * (entry proto (2 * (n + 64 * k))).toInt
    (∀ n, n < 64 → wordAt (awindow proto h).val n = (rnd (sum n) 30).val) ∧
    ((awindow proto h).mark = true ↔ ∃ n, n < 64 ∧ roundsOut (sum n))) ∧
  (∀ u : List Word,
    let y := lpFold u
    let d := dct3 .n32 y.val
    wordAt y.val 0 = wordAt u 48 ∧
    (∀ n, 1 ≤ n → n ≤ 15 →
      wordAt y.val n = (wr ((wordAt u (n + 48)).toInt + (wordAt u (48 - n)).toInt)).val) ∧
    (∀ n, 16 ≤ n → n ≤ 31 →
      wordAt y.val n = (wr (-(wordAt u (n - 16)).toInt + (wordAt u (48 - n)).toInt)).val) ∧
    (∀ k, k < 32 → wordAt (amodLp u).re k = (wr (2 * (wordAt d.val k).toInt)).val ∧ wordAt (amodLp u).im k = 0#32) ∧
    ((amodLp u).mark = true ↔
      (∃ n, 1 ≤ n ∧ n ≤ 15 ∧ leaves ((wordAt u (n + 48)).toInt + (wordAt u (48 - n)).toInt)) ∨
      (∃ n, 16 ≤ n ∧ n ≤ 31 ∧ leaves (-(wordAt u (n - 16)).toInt + (wordAt u (48 - n)).toInt)) ∨
      d.mark = true ∨ ∃ k, k < 32 ∧ leaves (2 * (wordAt d.val k).toInt))) ∧
  (∀ u : List Word,
    let x := hqSequence u
    let y := dct4 .n64 x.val
    wordAt x.val 0 = wordAt u 0 ∧
    (∀ n, n ≤ 30 → wordAt x.val (2 * n + 1) = wordAt u (n + 1) ∧
      wordAt x.val (2 * n + 2) = (wr (-(wordAt u (63 - n)).toInt)).val) ∧
    wordAt x.val 63 = wordAt u 32 ∧
    (∀ k, k < 32 →
      wordAt (amodHq u).re k = (wr (2 * (wordAt y.val k).toInt)).val ∧
      wordAt (amodHq u).im k = (wr (-2 * (wordAt y.val (63 - k)).toInt)).val) ∧
    ((amodHq u).mark = true ↔
      (∃ n, n ≤ 30 ∧ leaves (-(wordAt u (63 - n)).toInt)) ∨ y.mark = true ∨
      ∃ k, k < 32 ∧ (leaves (2 * (wordAt y.val k).toInt) ∨ leaves (-2 * (wordAt y.val (63 - k)).toInt))))

/-! The synthesis bank. -/

/-- R234, R235, R238, R239: the sequences that the two modes hand to the kernel and the block of 128 they make of its
results, in the order of the rules' own loops, and what sets the overflow mark of the combination. -/
def Obligations.SynthesisStepsFollowTheirFormulas : Prop :=
  (∀ (re im : Vector Word 64) (nb k : Nat), k < 64 →
    wordAt (hqX1 re nb) k = (if k < nb then rshr (entry re k) 6 else 0#32) ∧
    wordAt (hqX2 im nb) (63 - k) = (if k < nb then rshr (entry im k) 6 else 0#32) ∧
    wordAt (lpX re nb) k = (if k < nb then rshr (entry re k) 5 else 0#32)) ∧
  (∀ y1 y2 : List Word,
    let s := fun n : Nat => if n % 2 = 0 then (wordAt y2 n).toInt else -(wordAt y2 n).toInt
    (∀ n, n < 64 →
      wordAt (hqCombine y1 y2).val n = (wr (s n - (wordAt y1 n).toInt)).val ∧
      wordAt (hqCombine y1 y2).val (127 - n) = (wr (s n + (wordAt y1 n).toInt)).val) ∧
    ((hqCombine y1 y2).mark = true ↔
      ∃ n, n < 64 ∧ (leaves (s n - (wordAt y1 n).toInt) ∨ leaves (s n + (wordAt y1 n).toInt)))) ∧
  (∀ (x : List Word) (k : Nat), k < 64 →
    wordAt (lpYy x).val k = if k % 2 = 0 then (wr (-(wordAt x k).toInt)).val else wordAt x k) ∧
  (∀ (re : Vector Word 64) (nb : Nat), (lpYy (lpX re nb)).mark = false) ∧
  (∀ d t : List Word,
    (∀ n, n < 64 → wordAt (lpScatter d t) (32 + n) = wordAt d n) ∧
    (∀ n, n < 32 → wordAt (lpScatter d t) (31 - n) = wordAt d (n + 1)) ∧
    wordAt (lpScatter d t) 96 = 0#32 ∧
    (∀ n, 1 ≤ n → n ≤ 31 → wordAt (lpScatter d t) (96 + n) = wordAt t (n - 1)))

/-- R236, R245: after ten HQ slots the region that gives the outputs holds, in blocks of 64 from the front, the first
half of the newest block, the second half of the one before, the first half of the one before that, and so on. -/
def Obligations.HqRegionAlternatesTheHalvesOfTenSlots : Prop :=
  ∀ (h : Vector Word 1280) (a : Fin 2) (vs : List (List Word)), vs.length = 10 →
    let r := hqSlots h a vs
    r.2 = a ∧
    ∀ j k, j < 10 → k < 64 → ∀ v, vs[9 - j]? = some v →
      entry r.1 (640 * (1 - r.2).val + (64 * j + k)) = wordAt v (if j % 2 = 0 then k else 64 + k)

/-- R244: bands at and above `nb` are taken as 0 whatever the operand buffers hold. -/
def Obligations.BandCountMasksTheOperands : Prop :=
  ∀ (s s' : State) (c : BitVec 4) (nb : BitVec 8) (ch : Channel),
    s.channels[c.toNat]? = some ch → ch.syn.valid = true → nb.toNat ≤ 64 →
    s' = { s with xre := s'.xre, xim := s'.xim } →
    (∀ i, i < 64 → entry s'.xre i = (if i < nb.toNat then entry s.xre i else 0#32) ∧
      entry s'.xim i = (if i < nb.toNat then entry s.xim i else 0#32)) →
    ∃ t t', exec (.qmfs c nb) s = .next t ∧ exec (.qmfs c 64#8) s' = .next t' ∧
      t'.yre = t.yre ∧ t'.ovf = t.ovf ∧ t'.channels = t.channels

/-! Who may change what. -/

/-- R21, R8: no command writes `XRE` or `XIM`, the parameters, or anything at the pins. -/
def Obligations.NoCommandWritesTheOperands : Prop :=
  ∀ (i : Instr) (s t : State), exec i s = .next t → s.SameOperands t ∧ s.SameParams t ∧ s.SamePins t

/-- R23, R209, R246: a context is changed by the construction and slot commands of its own kind and number only. -/
def Obligations.ContextsChangeByTheirOwnCommandsOnly : Prop :=
  ∀ (i : Instr) (s t : State) (c : BitVec 4), exec i s = .next t →
    ((∀ m, i ≠ .ainit c m) → (∀ kx, i ≠ .qmfa c kx) →
      (t.channels[c.toNat]?).map Channel.ana = (s.channels[c.toNat]?).map Channel.ana) ∧
    ((∀ m, i ≠ .sinit c m) → (∀ nb, i ≠ .qmfs c nb) →
      (t.channels[c.toNat]?).map Channel.syn = (s.channels[c.toNat]?).map Channel.syn)

/-- R27, R277, R310: `FAULT` is set by the fault entry of a write to `CMD` and by nothing else; nothing but reset clears
it, changes the fault record once it is set, or makes a context invalid. -/
def Obligations.OnlyResetClearsFaultAndValid : Prop :=
  State.reset.fault = false ∧
  ∀ s t : State, step s = .next t →
    (s.fault = false → t.fault = true →
      ∃ w rest c, s.port = commandWrite w :: rest ∧ t = ({ s with port := rest } : State).raiseFault c w) ∧
    (s.port.head? ≠ some .reset →
      (s.fault = true → s.SameFault t) ∧
      (∀ c, anaValid s c = true → anaValid t c = true) ∧
      (∀ c, synValid s c = true → synValid t c = true))

/-- R28: `OVF` is sticky: a step that clears it is a reset, or a write to `STATUS` with bit 1 set while `FAULT = 0`. -/
def Obligations.OverflowFlagIsSticky : Prop :=
  ∀ s t : State, step s = .next t → s.ovf = true → t.ovf = false →
    s.port.head? = some .reset ∨
    (s.fault = false ∧ ∃ a v rest, s.port = .write a v :: rest ∧ a.offset = 0x008 ∧ v.getLsbD 1 = true)

/-- R209, R246, R23: a slot depends on its own context, the operands its rule names and `PROTO` alone: two states that
agree on them give the same results and the same new context, whatever else differs. -/
def Obligations.SlotDependsOnItsOwnContextOnly : Prop :=
  (∀ (s s' : State) (c : BitVec 4) (kx : BitVec 8) (ch ch' : Channel),
    s.channels[c.toNat]? = some ch → s'.channels[c.toNat]? = some ch' → ch'.ana = ch.ana →
    s'.proto = s.proto → (∀ j, j < 32 → entry s'.xre j = entry s.xre j) →
    ch.ana.valid = true → kx.toNat ≤ 32 →
    ∃ t t', exec (.qmfa c kx) s = .next t ∧ exec (.qmfa c kx) s' = .next t' ∧
      (∀ k, k < 32 → entry t'.yre k = entry t.yre k ∧ entry t'.yim k = entry t.yim k) ∧
      (t'.channels[c.toNat]?).map Channel.ana = (t.channels[c.toNat]?).map Channel.ana) ∧
  (∀ (s s' : State) (c : BitVec 4) (nb : BitVec 8) (ch ch' : Channel),
    s.channels[c.toNat]? = some ch → s'.channels[c.toNat]? = some ch' → ch'.syn = ch.syn →
    s'.proto = s.proto → s'.xre = s.xre → (ch.syn.mode = .hq → s'.xim = s.xim) →
    ch.syn.valid = true → nb.toNat ≤ 64 →
    ∃ t t', exec (.qmfs c nb) s = .next t ∧ exec (.qmfs c nb) s' = .next t' ∧
      (∀ k, k < 64 → entry t'.yre k = entry t.yre k) ∧
      (t'.channels[c.toNat]?).map Channel.syn = (t.channels[c.toNat]?).map Channel.syn)

/-- R52, R310: the history of a context that is not valid cannot be observed: two states that differ in such histories
alone step to two states that again differ in such histories alone, with the same words returned to the host. -/
def Obligations.UnconstructedHistoryIsUnobservable : Prop :=
  ∀ s s' t : State, SameButUnseen s s' → step s = .next t →
    ∃ t', step s' = .next t' ∧ SameButUnseen t t'

/-! The FFT core and the numbers. -/

/-- R155: a core of `2^(b+1)` points is its first stage over the whole array and then a core of `2^b` points on each
half, word for word, so that 64 is built from 32 and 32 from 16. -/
def Obligations.FftCoreIsBuiltFromTwoHalves : Prop :=
  ∀ (b : Nat) (w : Work), w.re.length = 2 ^ (b + 1) → w.im.length = 2 ^ (b + 1) →
    let w1 := fftStage (2 ^ (b + 1)) w (2 ^ b)
    let lo := fftCore b { re := w1.re.take (2 ^ b), im := w1.im.take (2 ^ b), mark := false }
    let hi := fftCore b { re := w1.re.drop (2 ^ b), im := w1.im.drop (2 ^ b), mark := false }
    fftCore (b + 1) w = { re := lo.re ++ hi.re, im := lo.im ++ hi.im, mark := w1.mark || lo.mark || hi.mark }

/-- R153, R124: the butterflies of one stage may be carried out in any order, with the same words and the same overflow
mark. -/
def Obligations.ButterfliesOfAStageCommute : Prop :=
  ∀ (n span : Nat) (w : Work) (l : List (Nat × Nat × Nat)), l.Perm (stageButterflies n span) →
    l.foldl (fun w b => butterfly w b.1 b.2.1 b.2.2) w = fftStage n w span

/-- R154, R17: bit reversal reads the `b`-bit spelling backwards and is its own inverse, and the three tables. -/
def Obligations.BitReversalIsItsOwnInverse : Prop :=
  (∀ b k, k < 2 ^ b →
    bitrev b k < 2 ^ b ∧ bitrev b (bitrev b k) = k ∧
    ∀ i, i < b → (bitrev b k).testBit i = k.testBit (b - 1 - i)) ∧
  (List.range 16).map (bitrev 4) = [0, 8, 4, 12, 2, 10, 6, 14, 1, 9, 5, 13, 3, 11, 7, 15] ∧
  (List.range 32).map (bitrev 5) = [0, 16, 8, 24, 4, 20, 12, 28, 2, 18, 10, 26, 6, 22, 14, 30,
    1, 17, 9, 25, 5, 21, 13, 29, 3, 19, 11, 27, 7, 23, 15, 31] ∧
  (List.range 64).map (bitrev 6) = [0, 32, 16, 48, 8, 40, 24, 56, 4, 36, 20, 52, 12, 44, 28, 60,
    2, 34, 18, 50, 10, 42, 26, 58, 6, 38, 22, 54, 14, 46, 30, 62,
    1, 33, 17, 49, 9, 41, 25, 57, 5, 37, 21, 53, 13, 45, 29, 61,
    3, 35, 19, 51, 11, 43, 27, 59, 7, 39, 23, 55, 15, 47, 31, 63]

/-- R132, R156: the rotations by table index 0 and 128 are exact. -/
def Obligations.RotationsByQuarterTurnsAreExact : Prop :=
  ∀ a b : Word,
    rotRe a b 0 = { val := a, mark := false } ∧ rotIm a b 0 = { val := b, mark := false } ∧
    rotRe a b 128 = { val := b, mark := false } ∧ rotIm a b 128 = wr (-a.toInt)

/-- R121, R122, R123: `WR` is congruent modulo 2^32 and exact without the mark, which says the value was outside `s32`;
`RND` and `RSHR` are the nearest, a tie going up, and `RSHR` never leaves `s32`. -/
def Obligations.NumericPrimitivesRoundAndWrap : Prop :=
  (∀ v : Int, ((wr v).val.toInt - v) % 4294967296 = 0 ∧
    ((wr v).mark = true ↔ v < -2147483648 ∨ 2147483647 < v) ∧
    ((wr v).mark = false → (wr v).val.toInt = v)) ∧
  (∀ (a : Int) (s : Nat), 1 ≤ s → ∃ q : Int, rnd a s = wr q ∧
    2 * (2 ^ s * q) - 2 ^ s ≤ 2 * a ∧ 2 * a < 2 * (2 ^ s * q) + 2 ^ s) ∧
  (∀ (v : Word) (s : Nat), s = 5 ∨ s = 6 →
    2 * (2 ^ s * (rshr v s).toInt) - 2 ^ s ≤ 2 * v.toInt ∧
    2 * v.toInt < 2 * (2 ^ s * (rshr v s).toInt) + 2 ^ s)

/-- R150, R312: every transform of an all-zero operand is all zero, exactly and without overflow. -/
def Obligations.TransformOfZeroIsZero : Prop :=
  ∀ (s : State) (n : BitVec 8) (sz : Size), n.toNat = sz.points →
    (∀ k, k < sz.points → entry s.xre k = 0#32 ∧ entry s.xim k = 0#32) →
    ∀ i ∈ transforms n, ∃ t, exec i s = .next t ∧ t.ovf = s.ovf ∧
      ∀ k, k < sz.points → entry t.yre k = 0#32 ∧ (i = .fft n → entry t.yim k = 0#32)

/-- R150, R171, R172: the exact corner cases: `FFT` and `DCT2` of a constant `c` give `WR(N c)` and then 0, and set
`OVF` if `N c` leaves `s32`; `FFT` and `DCT3` of an impulse `c` at index 0 give `c` everywhere. -/
def Obligations.ConstantsAndImpulsesTransformExactly : Prop :=
  ∀ (s : State) (n : BitVec 8) (sz : Size) (c : Word), n.toNat = sz.points →
    (∀ k, k < sz.points → entry s.xim k = 0#32) →
    ((∀ k, k < sz.points → entry s.xre k = c) →
      ∀ i, i = .fft n ∨ i = .dct2 n → ∃ t, exec i s = .next t ∧
        entry t.yre 0 = (wr (sz.points * c.toInt)).val ∧
        (t.ovf = true ↔ s.ovf = true ∨ leaves (sz.points * c.toInt)) ∧
        (∀ k, 1 ≤ k → k < sz.points → entry t.yre k = 0#32) ∧
        (i = .fft n → ∀ k, k < sz.points → entry t.yim k = 0#32)) ∧
    ((∀ k, k < sz.points → entry s.xre k = if k = 0 then c else 0#32) →
      ∀ i, i = .fft n ∨ i = .dct3 n → ∃ t, exec i s = .next t ∧ t.ovf = s.ovf ∧
        (∀ k, k < sz.points → entry t.yre k = c) ∧
        (i = .fft n → ∀ k, k < sz.points → entry t.yim k = 0#32))

/-- R128: the checks on the tables. -/
def Obligations.TwiddleTablesPassTheirChecks : Prop :=
  (∀ j, j ≤ 128 → tws j = twc (128 - j)) ∧
  (∀ j, 1 ≤ j → j ≤ 127 → twc (256 - j) = -twc j ∧ tws (256 - j) = tws j) ∧
  twc 64 = 759250125 ∧ tws 64 = 759250125 ∧
  ((List.range 256).map twc).sum = 1073741824 ∧
  ((List.range 256).map tws).sum = 174990514412 ∧
  ((List.range 256).map fun j : Nat => (j : Int) * twc j).sum = -14122428907996 ∧
  ((List.range 256).map fun j : Nat => (j : Int) * tws j).sum = 22398785844736 ∧
  (∀ j, j < 256 → 2 ^ 60 - 1330550407 ≤ twc j ^ 2 + tws j ^ 2 ∧ twc j ^ 2 + tws j ^ 2 ≤ 2 ^ 60 + 1130861349)

/-- R126: every entry is the integer nearest to `2^30` times the cosine or sine of its angle, which is at least 0.0139
away from a half-integer. -/
def Obligations.TwiddleEntriesAreNearestIntegers : Prop :=
  ∀ j : Nat, j < 256 →
    |(twc j : ℝ) - 2 ^ 30 * Real.cos (2 * Real.pi * j / 512)| ≤ 1 / 2 - 0.0139 ∧
    |(tws j : ℝ) - 2 ^ 30 * Real.sin (2 * Real.pi * j / 512)| ≤ 1 / 2 - 0.0139

/-- R133: operands of magnitude at most `2^29 / N` never set `OVF` in a transform command. The imaginary parts are
operands of `FFT` only. -/
def Obligations.BoundedOperandsNeverOverflow : Prop :=
  ∀ (s : State) (n : BitVec 8) (sz : Size), n.toNat = sz.points →
    (∀ k, k < sz.points → atMost (2 ^ 29 / sz.points) (entry s.xre k)) →
    ∀ i ∈ transforms n, (i = .fft n → ∀ k, k < sz.points → atMost (2 ^ 29 / sz.points) (entry s.xim k)) →
      ∃ t, exec i s = .next t ∧ t.ovf = s.ovf

/-! The datapath against the reference in exact real arithmetic. D0 gives no tolerance (R13); the bounds here are the
model's own, from one rounding of at most 1/2 for each stored component. -/

/-- R13, R150, R151: for components up to `2^21`, `FFT N` differs from the direct sum by at most `N` units. The bounds
`2^21` and `N` are the model's choice (log entry 9). -/
def Obligations.FftMatchesTheDirectSum : Prop :=
  ∀ (s : State) (n : BitVec 8) (sz : Size), n.toNat = sz.points →
    (∀ k, k < sz.points → atMost (2 ^ 21) (entry s.xre k) ∧ atMost (2 ^ 21) (entry s.xim k)) →
    ∃ t, exec (.fft n) s = .next t ∧
      ∀ k, k < sz.points →
        |real (entry t.yre k) - Reference.dftRe sz.points (fun i => real (entry s.xre i))
          (fun i => real (entry s.xim i)) k| ≤ sz.points ∧
        |real (entry t.yim k) - Reference.dftIm sz.points (fun i => real (entry s.xre i))
          (fun i => real (entry s.xim i)) k| ≤ sz.points

/-- R13, R170, R176: for samples up to `2^21`, each of the five engines differs from its direct sum by at most `2 N`
units. The bounds `2^21` and `2 N` are the model's choice (log entry 9). -/
def Obligations.EnginesMatchTheirDirectSums : Prop :=
  ∀ (sz : Size) (x : List Word), (∀ k, k < sz.points → atMost (2 ^ 21) (wordAt x k)) →
    ∀ k, k < sz.points →
      |real (wordAt (dct2 sz x).val k) - Reference.dct2 sz.points (fun i => real (wordAt x i)) k| ≤ 2 * sz.points ∧
      |real (wordAt (dct3 sz x).val k) - Reference.dct3 sz.points (fun i => real (wordAt x i)) k| ≤ 2 * sz.points ∧
      |real (wordAt (dct4 sz x).val k) - Reference.dct4 sz.points (fun i => real (wordAt x i)) k| ≤ 2 * sz.points ∧
      |real (wordAt (dst2 sz x).val k) - Reference.dst2 sz.points (fun i => real (wordAt x i)) k| ≤ 2 * sz.points ∧
      |real (wordAt (dst4 sz x).val k) - Reference.dst4 sz.points (fun i => real (wordAt x i)) k| ≤ 2 * sz.points

/-- R13, R206, R207: for windowed sums up to `2^20`, the subbands of both modes differ from the reference modulations by
at most 256 units. The bounds `2^20` and 256 are the model's choice (log entry 9). -/
def Obligations.AnalysisModulationMatchesTheReference : Prop :=
  ∀ u : List Word, (∀ n, n < 64 → atMost (2 ^ 20) (wordAt u n)) →
    ∀ k, k < 32 →
      |real (wordAt (amodLp u).re k) - Reference.analysisLp (fun n => real (wordAt u n)) k| ≤ 256 ∧
      |real (wordAt (amodHq u).re k) - Reference.analysisHqRe (fun n => real (wordAt u n)) k| ≤ 256 ∧
      |real (wordAt (amodHq u).im k) - Reference.analysisHqIm (fun n => real (wordAt u n)) k| ≤ 256

/-- R13, R232, R245: for subbands up to `2^26`, the new block of 128 of both modes differs from the reference by at most
512 units. The bounds `2^26` and 512 are the model's choice (log entry 9). -/
def Obligations.SynthesisBlockMatchesTheReference : Prop :=
  ∀ (re im : Vector Word 64) (nb : Nat), nb ≤ 64 →
    (∀ k, k < 64 → atMost (2 ^ 26) (entry re k) ∧ atMost (2 ^ 26) (entry im k)) →
    let a := fun k : Nat => if k < nb then real (entry re k) else 0
    let b := fun k : Nat => if k < nb then real (entry im k) else 0
    ∀ n, n < 128 →
      |real (wordAt (hqCombine (dct4 .n64 (hqX1 re nb)).val (dct4 .n64 (hqX2 im nb)).val).val n)
        - Reference.synthesisHq a b n| ≤ 512 ∧
      |real (wordAt (lpScatter (dct2 .n64 (lpX re nb)).val (dst2 .n64 (lpYy (lpX re nb)).val).val) n)
        - Reference.synthesisLp a n| ≤ 512

/-! The steps of the core and the slot of the synthesis bank. -/

/-- R152: a butterfly puts the wrapped sums at `p` and the rotation of the wrapped differences at `q`, leaves every other
word, and sets the mark if a sum, a difference or a component of the rotation leaves `s32` (R28, R124). -/
def Obligations.ButterflyFollowsItsDatapath : Prop :=
  ∀ (w : Work) (p q j : Nat), p < q → q < w.re.length → q < w.im.length →
    let ar := (wordAt w.re p).toInt
    let ai := (wordAt w.im p).toInt
    let br := (wordAt w.re q).toInt
    let bi := (wordAt w.im q).toInt
    let dr := (wr (ar - br)).val.toInt
    let di := (wr (ai - bi)).val.toInt
    let w' := butterfly w p q j
    wordAt w'.re p = (wr (ar + br)).val ∧ wordAt w'.im p = (wr (ai + bi)).val ∧
    wordAt w'.re q = (rnd (dr * twc j + di * tws j) 30).val ∧
    wordAt w'.im q = (rnd (di * twc j - dr * tws j) 30).val ∧
    (∀ i, i ≠ p → i ≠ q → wordAt w'.re i = wordAt w.re i ∧ wordAt w'.im i = wordAt w.im i) ∧
    w'.re.length = w.re.length ∧ w'.im.length = w.im.length ∧
    (w'.mark = true ↔ w.mark = true ∨ butterflyLeaves w (p, q, j))

/-- R153, R28, R124: a core of `2^b` points runs the butterflies of R153's loops in their order, and its mark is set if
one of them applies `WR` or `RND` to a value outside `s32`, on the words the earlier ones have left. -/
def Obligations.FftCoreRunsItsButterflies : Prop :=
  ∀ (b : Nat) (w : Work),
    fftCore b w = runButterflies (coreButterflies b) w ∧
    ((fftCore b w).mark = true ↔ w.mark = true ∨ coreLeaves b w.re w.im)

/-- R13, R231, R232, R245: after `SINIT` a context holds the reference history exactly. A slot on a context that holds a
reference history within 512 units leaves it holding, within 512 units, the reference history of R232 one slot later, and
its 64 samples differ from `out[k]` by at most half a unit and what 512 units weigh in the ten products. So does every
later slot, since the bound on the history is kept. The bounds `2^26`, `2^27`, `2^30` and 512 are the model's choice (log
entry 9). -/
def Obligations.SynthesisSlotsMatchTheReference : Prop :=
  (∀ (s : State) (c : BitVec 4) (m : Mode), c.toNat < s.nch →
    ∃ t y, exec (.sinit c m) s = .next t ∧ (t.channels[c.toNat]?).map Channel.syn = some y ∧ y.mode = m ∧
      y.valid = true ∧ followsReference y Reference.synthesisStart 0) ∧
  (∀ (s : State) (c : BitVec 4) (nb : BitVec 8) (ch : Channel) (W : Nat → ℝ),
    s.channels[c.toNat]? = some ch → ch.syn.valid = true → nb.toNat ≤ 64 →
    (∀ i, i < 640 → atMost (2 ^ 30) (entry s.proto i)) →
    (∀ k, k < nb.toNat → atMost (2 ^ 26) (entry s.xre k) ∧ (ch.syn.mode = .hq → atMost (2 ^ 26) (entry s.xim k))) →
    followsReference ch.syn W 512 → (∀ i, i < 1280 → |W i| ≤ 2 ^ 27) →
    let a := fun k : Nat => if k < nb.toNat then real (entry s.xre k) else 0
    let b := fun k : Nat => if k < nb.toNat then real (entry s.xim k) else 0
    let P := fun i : Nat => real (entry s.proto i)
    let W' := Reference.synthesisHistory W (Reference.synthesisBlock ch.syn.mode a b)
    ∃ t y, exec (.qmfs c nb) s = .next t ∧ (t.channels[c.toNat]?).map Channel.syn = some y ∧
      y.mode = ch.syn.mode ∧ y.valid = true ∧ followsReference y W' 512 ∧ (∀ i, i < 1280 → |W' i| ≤ 2 ^ 27) ∧
      ∀ k, k < 64 →
        |real (entry t.yre k) - Reference.synthesisOut P W' k|
          ≤ 1 / 2 + 512 * (∑ j ∈ Finset.range 10, |P (64 * j + k)|) / 2 ^ 30)
end

