-- ==== Sys2Proof/Laws/Arrays.lean ====
section
/-!
SUPPORT. Laws/Arrays.lean: reading one entry of an array of the state, or of a temporary list, after each operation that
makes one.
-/

namespace Sys2Proof.Machine

variable {n : Nat}

/-- Inside the array, `entry` is the array's own element. -/
theorem entry_eq_getElem (v : Vector Word n) (i : Nat) (h : i < n) : entry v i = v[i] := by
  simp [entry, h]

/-- Outside the array, `entry` is 0. -/
theorem entry_of_le (v : Vector Word n) (i : Nat) (h : n ≤ i) : entry v i = 0#32 := by
  simp [entry, h]

@[simp] theorem entry_tabulate (f : Nat → Word) (i : Nat) :
    entry (tabulate n f) i = if i < n then f i else 0#32 := by
  by_cases h : i < n <;> simp [entry, tabulate, h]

theorem entry_setEntry (v : Vector Word n) (i j : Nat) (x : Word) (h : j < n) :
    entry (setEntry v i x) j = if j = i then x else entry v j := by
  simp [setEntry, h]

theorem entry_overwrite (v : Vector Word n) (k : Nat) (l : List Word) (i : Nat) (h : i < n) :
    entry (overwrite v k l) i = if i < k then wordAt l i else entry v i := by
  simp [overwrite, wordAt, h]

@[simp] theorem length_operand (v : Vector Word 64) (k : Nat) : (operand v k).length = k := by simp [operand]

@[simp] theorem wordAt_operand (v : Vector Word 64) (k i : Nat) :
    wordAt (operand v k) i = if i < k then entry v i else 0#32 := by
  by_cases h : i < k <;> simp [wordAt, operand, h]

@[simp] theorem wordAt_mapRange (f : Nat → Word) (k i : Nat) :
    wordAt ((List.range k).map f) i = if i < k then f i else 0#32 := by
  by_cases h : i < k <;> simp [wordAt, h]

@[simp] theorem length_markedList (f : Nat → Marked Word) (k : Nat) : (markedList k f).val.length = k := by
  simp [markedList]

@[simp] theorem wordAt_markedList (f : Nat → Marked Word) (k i : Nat) :
    wordAt (markedList k f).val i = if i < k then (f i).val else 0#32 := by
  simp [markedList]

/-- A list of marked words is marked exactly when one of them is. -/
theorem mark_markedList (f : Nat → Marked Word) (k : Nat) :
    (markedList k f).mark = true ↔ ∃ i, i < k ∧ (f i).mark = true := by
  simp [markedList]

/-- `WR` sets the mark exactly outside `s32` (R121). -/
theorem mark_wr (v : Int) : (wr v).mark = true ↔ v < -2147483648 ∨ 2147483647 < v := by
  simp [wr, outsideS32]

/-- `RND` by the fraction bits of a coefficient is `WR` of the rounded accumulator (R122). -/
theorem rnd_coefBits (a : Int) : rnd a coefBits = wr ((a + 536870912) / 1073741824) := by
  simp [rnd, roundShift, coefBits, Int.shiftRight_eq_div_pow]

/-- `RND` by the fraction bits of a coefficient sets the mark exactly where the rounded accumulator is outside `s32`
(R122). -/
theorem mark_rnd (a : Int) : (rnd a coefBits).mark = true ↔
    (a + 536870912) / 1073741824 < -2147483648 ∨ 2147483647 < (a + 536870912) / 1073741824 := by
  rw [rnd_coefBits, mark_wr]

/-- A butterfly keeps the lengths of the work arrays. -/
@[simp] theorem butterfly_length (w : Work) (p q j : Nat) :
    (butterfly w p q j).re.length = w.re.length ∧ (butterfly w p q j).im.length = w.im.length := by
  simp [butterfly]

theorem foldl_butterfly_length (l : List (Nat × Nat × Nat)) (w : Work) :
    (l.foldl (fun w b => butterfly w b.1 b.2.1 b.2.2) w).re.length = w.re.length ∧
    (l.foldl (fun w b => butterfly w b.1 b.2.1 b.2.2) w).im.length = w.im.length := by
  induction l generalizing w with
  | nil => simp
  | cons b l ih => simpa using ih (butterfly w b.1 b.2.1 b.2.2)

/-- A stage keeps the lengths of the work arrays. -/
@[simp] theorem fftStage_length (k : Nat) (w : Work) (span : Nat) :
    (fftStage k w span).re.length = w.re.length ∧ (fftStage k w span).im.length = w.im.length :=
  foldl_butterfly_length _ w

/-- The core keeps the lengths of the work arrays. -/
@[simp] theorem fftCore_length (b : Nat) (w : Work) :
    (fftCore b w).re.length = w.re.length ∧ (fftCore b w).im.length = w.im.length := by
  unfold fftCore
  generalize spans b = l
  induction l generalizing w with
  | nil => simp
  | cons x l ih =>
    have h := ih (fftStage (2 ^ b) w x)
    simpa using h

end Sys2Proof.Machine
end

