-- ==== Sys2Proof/Laws/Encoding.lean ====
section
/-!
SUPPORT. Laws/Encoding.lean: the five fields of a command word put together and taken apart (spec/30_encoding.md R90).
-/

namespace Sys2Proof

variable (r a n : BitVec 8) (c o : BitVec 4)

@[simp] theorem fieldOpc_packWord : fieldOpc (packWord r a n c o) = o := by
  apply BitVec.eq_of_getLsbD_eq
  intro i hi
  simp only [fieldOpc, packWord, BitVec.getLsbD_extractLsb', BitVec.getLsbD_append]
  interval_cases i <;> simp

@[simp] theorem fieldCh_packWord : fieldCh (packWord r a n c o) = c := by
  apply BitVec.eq_of_getLsbD_eq
  intro i hi
  simp only [fieldCh, packWord, BitVec.getLsbD_extractLsb', BitVec.getLsbD_append]
  interval_cases i <;> simp

@[simp] theorem fieldN_packWord : fieldN (packWord r a n c o) = n := by
  apply BitVec.eq_of_getLsbD_eq
  intro i hi
  simp only [fieldN, packWord, BitVec.getLsbD_extractLsb', BitVec.getLsbD_append]
  interval_cases i <;> simp

@[simp] theorem fieldArg_packWord : fieldArg (packWord r a n c o) = a := by
  apply BitVec.eq_of_getLsbD_eq
  intro i hi
  simp only [fieldArg, packWord, BitVec.getLsbD_extractLsb', BitVec.getLsbD_append]
  interval_cases i <;> simp

@[simp] theorem fieldReserved_packWord : fieldReserved (packWord r a n c o) = r := by
  apply BitVec.eq_of_getLsbD_eq
  intro i hi
  simp only [fieldReserved, packWord, BitVec.getLsbD_extractLsb', BitVec.getLsbD_append]
  interval_cases i <;> simp

/-- Every word is its five fields put together. -/
theorem packWord_fields (w : Word) :
    packWord (fieldReserved w) (fieldArg w) (fieldN w) (fieldCh w) (fieldOpc w) = w := by
  apply BitVec.eq_of_getLsbD_eq
  intro i hi
  simp only [fieldReserved, fieldArg, fieldN, fieldCh, fieldOpc, packWord, BitVec.getLsbD_extractLsb',
    BitVec.getLsbD_append]
  interval_cases i <;> simp

/-- The fields as numbers of the word's own number, as R97 spells them. -/
theorem fields_toNat (w : Word) :
    (fieldOpc w).toNat = w.toNat % 16 ∧ (fieldCh w).toNat = w.toNat / 16 % 16 ∧
    (fieldN w).toNat = w.toNat / 256 % 256 ∧ (fieldArg w).toNat = w.toNat / 65536 % 256 ∧
    (fieldReserved w).toNat = w.toNat / 16777216 := by
  have h := w.isLt
  simp only [fieldOpc, fieldCh, fieldN, fieldArg, fieldReserved, BitVec.extractLsb'_toNat, Nat.shiftRight_eq_div_pow,
    Nat.reducePow, Nat.div_one, true_and]
  omega

end Sys2Proof
end

