-- ==== Sys2Proof/Laws/State.lean ====
section
/-!
SUPPORT. Laws/State.lean: one lemma for each field and each update of the state, true by `rfl`, so that no later proof
unfolds a record update.
-/

namespace Sys2Proof.Machine

variable (s : State)

/-! `State.raiseFault` -/

@[simp] theorem State.raiseFault_xre (c : Cause) (w : Word) : (s.raiseFault c w).xre = s.xre := rfl
@[simp] theorem State.raiseFault_xim (c : Cause) (w : Word) : (s.raiseFault c w).xim = s.xim := rfl
@[simp] theorem State.raiseFault_yre (c : Cause) (w : Word) : (s.raiseFault c w).yre = s.yre := rfl
@[simp] theorem State.raiseFault_yim (c : Cause) (w : Word) : (s.raiseFault c w).yim = s.yim := rfl
@[simp] theorem State.raiseFault_fault (c : Cause) (w : Word) : (s.raiseFault c w).fault = true := rfl
@[simp] theorem State.raiseFault_ovf (c : Cause) (w : Word) : (s.raiseFault c w).ovf = s.ovf := rfl
@[simp] theorem State.raiseFault_errcode (c : Cause) (w : Word) : (s.raiseFault c w).errcode = causeCode c := rfl
@[simp] theorem State.raiseFault_faultcmd (c : Cause) (w : Word) : (s.raiseFault c w).faultcmd = w := rfl
@[simp] theorem State.raiseFault_channels (c : Cause) (w : Word) : (s.raiseFault c w).channels = s.channels := rfl
@[simp] theorem State.raiseFault_proto (c : Cause) (w : Word) : (s.raiseFault c w).proto = s.proto := rfl
@[simp] theorem State.raiseFault_port (c : Cause) (w : Word) : (s.raiseFault c w).port = s.port := rfl
@[simp] theorem State.raiseFault_replies (c : Cause) (w : Word) : (s.raiseFault c w).replies = s.replies := rfl

/-! `State.markOvf` -/

@[simp] theorem State.markOvf_xre (m : Bool) : (s.markOvf m).xre = s.xre := rfl
@[simp] theorem State.markOvf_xim (m : Bool) : (s.markOvf m).xim = s.xim := rfl
@[simp] theorem State.markOvf_yre (m : Bool) : (s.markOvf m).yre = s.yre := rfl
@[simp] theorem State.markOvf_yim (m : Bool) : (s.markOvf m).yim = s.yim := rfl
@[simp] theorem State.markOvf_fault (m : Bool) : (s.markOvf m).fault = s.fault := rfl
@[simp] theorem State.markOvf_ovf (m : Bool) : (s.markOvf m).ovf = (s.ovf || m) := rfl
@[simp] theorem State.markOvf_errcode (m : Bool) : (s.markOvf m).errcode = s.errcode := rfl
@[simp] theorem State.markOvf_faultcmd (m : Bool) : (s.markOvf m).faultcmd = s.faultcmd := rfl
@[simp] theorem State.markOvf_channels (m : Bool) : (s.markOvf m).channels = s.channels := rfl
@[simp] theorem State.markOvf_proto (m : Bool) : (s.markOvf m).proto = s.proto := rfl
@[simp] theorem State.markOvf_port (m : Bool) : (s.markOvf m).port = s.port := rfl
@[simp] theorem State.markOvf_replies (m : Bool) : (s.markOvf m).replies = s.replies := rfl

/-! `State.clearOvf` -/

@[simp] theorem State.clearOvf_xre : (s.clearOvf).xre = s.xre := rfl
@[simp] theorem State.clearOvf_xim : (s.clearOvf).xim = s.xim := rfl
@[simp] theorem State.clearOvf_yre : (s.clearOvf).yre = s.yre := rfl
@[simp] theorem State.clearOvf_yim : (s.clearOvf).yim = s.yim := rfl
@[simp] theorem State.clearOvf_fault : (s.clearOvf).fault = s.fault := rfl
@[simp] theorem State.clearOvf_ovf : (s.clearOvf).ovf = false := rfl
@[simp] theorem State.clearOvf_errcode : (s.clearOvf).errcode = s.errcode := rfl
@[simp] theorem State.clearOvf_faultcmd : (s.clearOvf).faultcmd = s.faultcmd := rfl
@[simp] theorem State.clearOvf_channels : (s.clearOvf).channels = s.channels := rfl
@[simp] theorem State.clearOvf_proto : (s.clearOvf).proto = s.proto := rfl
@[simp] theorem State.clearOvf_port : (s.clearOvf).port = s.port := rfl
@[simp] theorem State.clearOvf_replies : (s.clearOvf).replies = s.replies := rfl

/-! `State.storeRe` -/

@[simp] theorem State.storeRe_xre (k : Nat) (l : List Word) : (s.storeRe k l).xre = s.xre := rfl
@[simp] theorem State.storeRe_xim (k : Nat) (l : List Word) : (s.storeRe k l).xim = s.xim := rfl
@[simp] theorem State.storeRe_yre (k : Nat) (l : List Word) : (s.storeRe k l).yre = overwrite s.yre k l := rfl
@[simp] theorem State.storeRe_yim (k : Nat) (l : List Word) : (s.storeRe k l).yim = s.yim := rfl
@[simp] theorem State.storeRe_fault (k : Nat) (l : List Word) : (s.storeRe k l).fault = s.fault := rfl
@[simp] theorem State.storeRe_ovf (k : Nat) (l : List Word) : (s.storeRe k l).ovf = s.ovf := rfl
@[simp] theorem State.storeRe_errcode (k : Nat) (l : List Word) : (s.storeRe k l).errcode = s.errcode := rfl
@[simp] theorem State.storeRe_faultcmd (k : Nat) (l : List Word) : (s.storeRe k l).faultcmd = s.faultcmd := rfl
@[simp] theorem State.storeRe_channels (k : Nat) (l : List Word) : (s.storeRe k l).channels = s.channels := rfl
@[simp] theorem State.storeRe_proto (k : Nat) (l : List Word) : (s.storeRe k l).proto = s.proto := rfl
@[simp] theorem State.storeRe_port (k : Nat) (l : List Word) : (s.storeRe k l).port = s.port := rfl
@[simp] theorem State.storeRe_replies (k : Nat) (l : List Word) : (s.storeRe k l).replies = s.replies := rfl

/-! `State.storeIm` -/

@[simp] theorem State.storeIm_xre (k : Nat) (l : List Word) : (s.storeIm k l).xre = s.xre := rfl
@[simp] theorem State.storeIm_xim (k : Nat) (l : List Word) : (s.storeIm k l).xim = s.xim := rfl
@[simp] theorem State.storeIm_yre (k : Nat) (l : List Word) : (s.storeIm k l).yre = s.yre := rfl
@[simp] theorem State.storeIm_yim (k : Nat) (l : List Word) : (s.storeIm k l).yim = overwrite s.yim k l := rfl
@[simp] theorem State.storeIm_fault (k : Nat) (l : List Word) : (s.storeIm k l).fault = s.fault := rfl
@[simp] theorem State.storeIm_ovf (k : Nat) (l : List Word) : (s.storeIm k l).ovf = s.ovf := rfl
@[simp] theorem State.storeIm_errcode (k : Nat) (l : List Word) : (s.storeIm k l).errcode = s.errcode := rfl
@[simp] theorem State.storeIm_faultcmd (k : Nat) (l : List Word) : (s.storeIm k l).faultcmd = s.faultcmd := rfl
@[simp] theorem State.storeIm_channels (k : Nat) (l : List Word) : (s.storeIm k l).channels = s.channels := rfl
@[simp] theorem State.storeIm_proto (k : Nat) (l : List Word) : (s.storeIm k l).proto = s.proto := rfl
@[simp] theorem State.storeIm_port (k : Nat) (l : List Word) : (s.storeIm k l).port = s.port := rfl
@[simp] theorem State.storeIm_replies (k : Nat) (l : List Word) : (s.storeIm k l).replies = s.replies := rfl

/-! `State.setAna` -/

@[simp] theorem State.setAna_xre (c : Nat) (a : AnaCtx) : (s.setAna c a).xre = s.xre := rfl
@[simp] theorem State.setAna_xim (c : Nat) (a : AnaCtx) : (s.setAna c a).xim = s.xim := rfl
@[simp] theorem State.setAna_yre (c : Nat) (a : AnaCtx) : (s.setAna c a).yre = s.yre := rfl
@[simp] theorem State.setAna_yim (c : Nat) (a : AnaCtx) : (s.setAna c a).yim = s.yim := rfl
@[simp] theorem State.setAna_fault (c : Nat) (a : AnaCtx) : (s.setAna c a).fault = s.fault := rfl
@[simp] theorem State.setAna_ovf (c : Nat) (a : AnaCtx) : (s.setAna c a).ovf = s.ovf := rfl
@[simp] theorem State.setAna_errcode (c : Nat) (a : AnaCtx) : (s.setAna c a).errcode = s.errcode := rfl
@[simp] theorem State.setAna_faultcmd (c : Nat) (a : AnaCtx) : (s.setAna c a).faultcmd = s.faultcmd := rfl
@[simp] theorem State.setAna_channels (c : Nat) (a : AnaCtx) :
    (s.setAna c a).channels = s.channels.modify c fun ch => { ch with ana := a } := rfl
@[simp] theorem State.setAna_proto (c : Nat) (a : AnaCtx) : (s.setAna c a).proto = s.proto := rfl
@[simp] theorem State.setAna_port (c : Nat) (a : AnaCtx) : (s.setAna c a).port = s.port := rfl
@[simp] theorem State.setAna_replies (c : Nat) (a : AnaCtx) : (s.setAna c a).replies = s.replies := rfl

/-! `State.setSyn` -/

@[simp] theorem State.setSyn_xre (c : Nat) (y : SynCtx) : (s.setSyn c y).xre = s.xre := rfl
@[simp] theorem State.setSyn_xim (c : Nat) (y : SynCtx) : (s.setSyn c y).xim = s.xim := rfl
@[simp] theorem State.setSyn_yre (c : Nat) (y : SynCtx) : (s.setSyn c y).yre = s.yre := rfl
@[simp] theorem State.setSyn_yim (c : Nat) (y : SynCtx) : (s.setSyn c y).yim = s.yim := rfl
@[simp] theorem State.setSyn_fault (c : Nat) (y : SynCtx) : (s.setSyn c y).fault = s.fault := rfl
@[simp] theorem State.setSyn_ovf (c : Nat) (y : SynCtx) : (s.setSyn c y).ovf = s.ovf := rfl
@[simp] theorem State.setSyn_errcode (c : Nat) (y : SynCtx) : (s.setSyn c y).errcode = s.errcode := rfl
@[simp] theorem State.setSyn_faultcmd (c : Nat) (y : SynCtx) : (s.setSyn c y).faultcmd = s.faultcmd := rfl
@[simp] theorem State.setSyn_channels (c : Nat) (y : SynCtx) :
    (s.setSyn c y).channels = s.channels.modify c fun ch => { ch with syn := y } := rfl
@[simp] theorem State.setSyn_proto (c : Nat) (y : SynCtx) : (s.setSyn c y).proto = s.proto := rfl
@[simp] theorem State.setSyn_port (c : Nat) (y : SynCtx) : (s.setSyn c y).port = s.port := rfl
@[simp] theorem State.setSyn_replies (c : Nat) (y : SynCtx) : (s.setSyn c y).replies = s.replies := rfl

/-! `State.setXre` -/

@[simp] theorem State.setXre_xre (i : Nat) (v : Word) : (s.setXre i v).xre = setEntry s.xre i v := rfl
@[simp] theorem State.setXre_xim (i : Nat) (v : Word) : (s.setXre i v).xim = s.xim := rfl
@[simp] theorem State.setXre_yre (i : Nat) (v : Word) : (s.setXre i v).yre = s.yre := rfl
@[simp] theorem State.setXre_yim (i : Nat) (v : Word) : (s.setXre i v).yim = s.yim := rfl
@[simp] theorem State.setXre_fault (i : Nat) (v : Word) : (s.setXre i v).fault = s.fault := rfl
@[simp] theorem State.setXre_ovf (i : Nat) (v : Word) : (s.setXre i v).ovf = s.ovf := rfl
@[simp] theorem State.setXre_errcode (i : Nat) (v : Word) : (s.setXre i v).errcode = s.errcode := rfl
@[simp] theorem State.setXre_faultcmd (i : Nat) (v : Word) : (s.setXre i v).faultcmd = s.faultcmd := rfl
@[simp] theorem State.setXre_channels (i : Nat) (v : Word) : (s.setXre i v).channels = s.channels := rfl
@[simp] theorem State.setXre_proto (i : Nat) (v : Word) : (s.setXre i v).proto = s.proto := rfl
@[simp] theorem State.setXre_port (i : Nat) (v : Word) : (s.setXre i v).port = s.port := rfl
@[simp] theorem State.setXre_replies (i : Nat) (v : Word) : (s.setXre i v).replies = s.replies := rfl

/-! `State.setXim` -/

@[simp] theorem State.setXim_xre (i : Nat) (v : Word) : (s.setXim i v).xre = s.xre := rfl
@[simp] theorem State.setXim_xim (i : Nat) (v : Word) : (s.setXim i v).xim = setEntry s.xim i v := rfl
@[simp] theorem State.setXim_yre (i : Nat) (v : Word) : (s.setXim i v).yre = s.yre := rfl
@[simp] theorem State.setXim_yim (i : Nat) (v : Word) : (s.setXim i v).yim = s.yim := rfl
@[simp] theorem State.setXim_fault (i : Nat) (v : Word) : (s.setXim i v).fault = s.fault := rfl
@[simp] theorem State.setXim_ovf (i : Nat) (v : Word) : (s.setXim i v).ovf = s.ovf := rfl
@[simp] theorem State.setXim_errcode (i : Nat) (v : Word) : (s.setXim i v).errcode = s.errcode := rfl
@[simp] theorem State.setXim_faultcmd (i : Nat) (v : Word) : (s.setXim i v).faultcmd = s.faultcmd := rfl
@[simp] theorem State.setXim_channels (i : Nat) (v : Word) : (s.setXim i v).channels = s.channels := rfl
@[simp] theorem State.setXim_proto (i : Nat) (v : Word) : (s.setXim i v).proto = s.proto := rfl
@[simp] theorem State.setXim_port (i : Nat) (v : Word) : (s.setXim i v).port = s.port := rfl
@[simp] theorem State.setXim_replies (i : Nat) (v : Word) : (s.setXim i v).replies = s.replies := rfl

/-! `State.reply` -/

@[simp] theorem State.reply_xre (v : Word) : (s.reply v).xre = s.xre := rfl
@[simp] theorem State.reply_xim (v : Word) : (s.reply v).xim = s.xim := rfl
@[simp] theorem State.reply_yre (v : Word) : (s.reply v).yre = s.yre := rfl
@[simp] theorem State.reply_yim (v : Word) : (s.reply v).yim = s.yim := rfl
@[simp] theorem State.reply_fault (v : Word) : (s.reply v).fault = s.fault := rfl
@[simp] theorem State.reply_ovf (v : Word) : (s.reply v).ovf = s.ovf := rfl
@[simp] theorem State.reply_errcode (v : Word) : (s.reply v).errcode = s.errcode := rfl
@[simp] theorem State.reply_faultcmd (v : Word) : (s.reply v).faultcmd = s.faultcmd := rfl
@[simp] theorem State.reply_channels (v : Word) : (s.reply v).channels = s.channels := rfl
@[simp] theorem State.reply_proto (v : Word) : (s.reply v).proto = s.proto := rfl
@[simp] theorem State.reply_port (v : Word) : (s.reply v).port = s.port := rfl
@[simp] theorem State.reply_replies (v : Word) : (s.reply v).replies = v :: s.replies := rfl

/-! `State.withFetchWord` -/

@[simp] theorem State.withFetchWord_xre (nbits w : Nat) : (s.withFetchWord nbits w).xre = s.xre := rfl
@[simp] theorem State.withFetchWord_xim (nbits w : Nat) : (s.withFetchWord nbits w).xim = s.xim := rfl
@[simp] theorem State.withFetchWord_yre (nbits w : Nat) : (s.withFetchWord nbits w).yre = s.yre := rfl
@[simp] theorem State.withFetchWord_yim (nbits w : Nat) : (s.withFetchWord nbits w).yim = s.yim := rfl
@[simp] theorem State.withFetchWord_fault (nbits w : Nat) : (s.withFetchWord nbits w).fault = s.fault := rfl
@[simp] theorem State.withFetchWord_ovf (nbits w : Nat) : (s.withFetchWord nbits w).ovf = s.ovf := rfl
@[simp] theorem State.withFetchWord_errcode (nbits w : Nat) : (s.withFetchWord nbits w).errcode = s.errcode := rfl
@[simp] theorem State.withFetchWord_faultcmd (nbits w : Nat) : (s.withFetchWord nbits w).faultcmd = s.faultcmd := rfl
@[simp] theorem State.withFetchWord_channels (nbits w : Nat) : (s.withFetchWord nbits w).channels = s.channels := rfl
@[simp] theorem State.withFetchWord_proto (nbits w : Nat) : (s.withFetchWord nbits w).proto = s.proto := rfl
@[simp] theorem State.withFetchWord_port (nbits w : Nat) :
    (s.withFetchWord nbits w).port = commandWrite (BitVec.ofNat 32 (w % 2 ^ nbits)) :: s.port := rfl
@[simp] theorem State.withFetchWord_replies (nbits w : Nat) : (s.withFetchWord nbits w).replies = s.replies := rfl

/-! `State.afterReset` -/

@[simp] theorem State.afterReset_fault : s.afterReset.fault = false := rfl
@[simp] theorem State.afterReset_ovf : s.afterReset.ovf = false := rfl
@[simp] theorem State.afterReset_errcode : s.afterReset.errcode = 0#4 := rfl
@[simp] theorem State.afterReset_faultcmd : s.afterReset.faultcmd = 0#32 := rfl
@[simp] theorem State.afterReset_channels : s.afterReset.channels = List.replicate s.nch Channel.reset := rfl
@[simp] theorem State.afterReset_proto : s.afterReset.proto = s.proto := rfl
@[simp] theorem State.afterReset_port : s.afterReset.port = s.port := rfl
@[simp] theorem State.afterReset_replies : s.afterReset.replies = s.replies := rfl

/-! `NCH` is the length of the list of contexts, so every update keeps it. -/

@[simp] theorem State.nch_raiseFault (c : Cause) (w : Word) : (s.raiseFault c w).nch = s.nch := rfl
@[simp] theorem State.nch_markOvf (m : Bool) : (s.markOvf m).nch = s.nch := rfl
@[simp] theorem State.nch_storeRe (k : Nat) (l : List Word) : (s.storeRe k l).nch = s.nch := rfl
@[simp] theorem State.nch_storeIm (k : Nat) (l : List Word) : (s.storeIm k l).nch = s.nch := rfl
@[simp] theorem State.nch_setAna (c : Nat) (a : AnaCtx) : (s.setAna c a).nch = s.nch := by simp [State.nch]
@[simp] theorem State.nch_setSyn (c : Nat) (y : SynCtx) : (s.setSyn c y).nch = s.nch := by simp [State.nch]
@[simp] theorem State.nch_afterReset : s.afterReset.nch = s.nch := by simp [State.nch]

/-- A context after `setAna`. -/
theorem State.setAna_getElem? (c d : Nat) (a : AnaCtx) :
    (s.setAna c a).channels[d]? = (s.channels[d]?).map fun ch => if c = d then { ch with ana := a } else ch := by
  simp [List.getElem?_modify]

/-- A context after `setSyn`. -/
theorem State.setSyn_getElem? (c d : Nat) (y : SynCtx) :
    (s.setSyn c y).channels[d]? = (s.channels[d]?).map fun ch => if c = d then { ch with syn := y } else ch := by
  simp [List.getElem?_modify]

end Sys2Proof.Machine
end

