-- ==== Sys2Proof/Laws/Operations.lean ====
section
/-!
SUPPORT. Laws/Operations.lean: for each shared operation of the machine, all that it can do. A proof about a command or
a step cites these and does not unfold the operation.
-/

namespace Sys2Proof.Machine

/-- The size field spells a size exactly when it is that size's number of points (R93, R97). -/
theorem sizeOfField_eq_some (n : BitVec 8) (sz : Size) : sizeOfField n = some sz ↔ n.toNat = sz.points := by
  have h16 : n = 16#8 ↔ n.toNat = 16 := by simp [BitVec.toNat_eq]
  have h32 : n = 32#8 ↔ n.toNat = 32 := by simp [BitVec.toNat_eq]
  have h64 : n = 64#8 ↔ n.toNat = 64 := by simp [BitVec.toNat_eq]
  unfold sizeOfField
  cases sz <;> simp only [h16, h32, h64, Size.points] <;> split_ifs <;> simp_all

/-- No size has the number of points that the field spells. -/
theorem sizeOfField_eq_none (n : BitVec 8) : sizeOfField n = none ↔ ∀ sz : Size, n.toNat ≠ sz.points := by
  simp only [Option.eq_none_iff_forall_ne_some, ne_eq, sizeOfField_eq_some]

/-- A transform command runs at the size its field spells, or raises `E_SIZE` (R91 step 4). -/
theorem onSize_next {i : Instr} {n : BitVec 8} {s t : State} {run : Size → State}
    (h : onSize i n s run = .next t) :
    (∃ sz : Size, n.toNat = sz.points ∧ t = run sz) ∨
    ((∀ sz : Size, n.toNat ≠ sz.points) ∧ t = s.raiseFault .size (encode i)) := by
  unfold onSize at h
  cases hn : sizeOfField n with
  | none => rw [hn] at h; cases h; exact .inr ⟨(sizeOfField_eq_none n).1 hn, rfl⟩
  | some sz => rw [hn] at h; cases h; exact .inl ⟨sz, (sizeOfField_eq_some n sz).1 hn, rfl⟩

/-- A transform command of a legal size runs. -/
theorem onSize_of_points {i : Instr} {n : BitVec 8} {s : State} {run : Size → State} {sz : Size}
    (h : n.toNat = sz.points) : onSize i n s run = .next (run sz) := by
  simp [onSize, (sizeOfField_eq_some n sz).2 h]

/-- A construction command runs on the contexts of its channel, or raises `E_CHAN` (R91 step 5). -/
theorem onChannel_next {i : Instr} {c : BitVec 4} {s t : State} {run : Channel → State}
    (h : onChannel i c s run = .next t) :
    (∃ ch, s.channels[c.toNat]? = some ch ∧ t = run ch) ∨
    (s.nch ≤ c.toNat ∧ t = s.raiseFault .chan (encode i)) := by
  unfold onChannel at h
  cases hc : s.channels[c.toNat]? with
  | none => rw [hc] at h; cases h; exact .inr ⟨by simpa [State.nch] using hc, rfl⟩
  | some ch => rw [hc] at h; cases h; exact .inl ⟨ch, rfl, rfl⟩

/-- A slot command runs on a constructed context of its channel, or raises the first of `E_CHAN`, `E_ARG`, `E_UNINIT`
that applies (R91 steps 6 and 7). -/
theorem onSlot_next {i : Instr} {c : BitVec 4} {arg : BitVec 8} {limit : Nat} {valid : Channel → Bool}
    {s t : State} {run : Channel → State} (h : onSlot i c arg limit valid s run = .next t) :
    (∃ ch, s.channels[c.toNat]? = some ch ∧ arg.toNat ≤ limit ∧ valid ch = true ∧ t = run ch) ∨
    (s.nch ≤ c.toNat ∧ t = s.raiseFault .chan (encode i)) ∨
    (c.toNat < s.nch ∧ limit < arg.toNat ∧ t = s.raiseFault .arg (encode i)) ∨
    (∃ ch, s.channels[c.toNat]? = some ch ∧ arg.toNat ≤ limit ∧ valid ch = false ∧
      t = s.raiseFault .uninit (encode i)) := by
  unfold onSlot at h
  cases hc : s.channels[c.toNat]? with
  | none => rw [hc] at h; cases h; exact .inr (.inl ⟨by simpa [State.nch] using hc, rfl⟩)
  | some ch =>
    rw [hc] at h
    have hlt : c.toNat < s.nch := (List.getElem?_eq_some_iff.1 hc).1
    by_cases ha : limit < arg.toNat
    · simp only [ha, if_true] at h; cases h; exact .inr (.inr (.inl ⟨hlt, ha, rfl⟩))
    · by_cases hv : valid ch = false
      · simp only [ha, hv, if_true, if_false] at h; cases h
        exact .inr (.inr (.inr ⟨ch, rfl, Nat.le_of_not_lt ha, hv, rfl⟩))
      · simp only [ha, hv, if_false] at h; cases h
        exact .inl ⟨ch, rfl, Nat.le_of_not_lt ha, by simpa using hv, rfl⟩

/-- A command word runs the command it decodes to, or takes the decoder's fault (R91). -/
theorem runCommand_next {w : Word} {s t : State} (h : runCommand w s = .next t) :
    (∃ i, decode w = .ok i ∧ exec i s = .next t) ∨ (∃ c, decode w = .error c ∧ t = s.raiseFault c w) := by
  unfold runCommand at h
  cases hd : decode w with
  | ok i => rw [hd] at h; exact .inl ⟨i, rfl, h⟩
  | error c => rw [hd] at h; cases h; exact .inr ⟨c, rfl, rfl⟩

/-- All that a bus write can do (R64). -/
theorem busWrite_next {off : Nat} {v : Word} {s t : State} (h : busWrite off v s = .next t) :
    t = s ∨
    (s.fault = false ∧ off = Config.offStatus ∧ v.getLsbD 1 = true ∧ t = s.clearOvf) ∨
    (s.fault = false ∧ off = Config.offCmd ∧ runCommand v s = .next t) ∨
    (s.fault = false ∧ ∃ i, i < 64 ∧ (t = s.setXre i v ∨ t = s.setXim i v)) := by
  unfold busWrite at h
  split_ifs at h with h1 h2 h3 h4 h5 h6
  · cases h; exact .inl rfl
  · cases h; exact .inr (.inl ⟨by simpa using h1, h2, h3, rfl⟩)
  · cases h; exact .inl rfl
  · exact .inr (.inr (.inl ⟨by simpa using h1, h4, h⟩))
  · cases h
    refine .inr (.inr (.inr ⟨by simpa using h1, _, ?_, .inl rfl⟩))
    simp only [Config.offXre] at h5 ⊢; omega
  · cases h
    refine .inr (.inr (.inr ⟨by simpa using h1, _, ?_, .inr rfl⟩))
    simp only [Config.offXim] at h6 ⊢; omega
  · cases h; exact .inl rfl

/-- Steps 2 and 3 of a low-power analysis slot (R203). -/
@[simp] theorem analysisFrame_lp (proto : Vector Word 640) (h : Vector Word 320) :
    analysisFrame proto .lp h =
      { amodLp (awindow proto h).val with mark := (awindow proto h).mark || (amodLp (awindow proto h).val).mark } := rfl

/-- Steps 2 and 4 of a high-quality analysis slot (R203). -/
@[simp] theorem analysisFrame_hq (proto : Vector Word 640) (h : Vector Word 320) :
    analysisFrame proto .hq h =
      { amodHq (awindow proto h).val with mark := (awindow proto h).mark || (amodHq (awindow proto h).val).mark } := rfl

/-- All that a step can do (R14): nothing where the host does nothing, an answer to a read, a write, or a reset. -/
theorem step_next {s t : State} (h : step s = .next t) :
    (s.port = [] ∧ t = s) ∨
    (∃ a rest, s.port = .read a :: rest ∧
      t = ({ s with port := rest } : State).reply (busRead { s with port := rest } a.offset)) ∨
    (∃ a v rest, s.port = .write a v :: rest ∧ busWrite a.offset v { s with port := rest } = .next t) ∨
    (∃ rest, s.port = .reset :: rest ∧ t = ({ s with port := rest } : State).afterReset) := by
  unfold step at h
  cases hp : s.port with
  | nil => rw [hp] at h; cases h; exact .inl ⟨rfl, rfl⟩
  | cons e rest =>
    rw [hp] at h
    cases e with
    | read a => cases h; exact .inr (.inl ⟨a, rest, rfl, rfl⟩)
    | write a v => exact .inr (.inr (.inl ⟨a, v, rest, rfl, h⟩))
    | reset => cases h; exact .inr (.inr (.inr ⟨rest, rfl, rfl⟩))

end Sys2Proof.Machine
end

