-- ==== Sys2Proof/Laws/PerInstr.lean ====
section
/-!
SUPPORT. Laws/PerInstr.lean: the family `EncodedFields`: the five fields of each command's word, as the formats of
spec/30_encoding.md R93 to R96 and the operation codes of R92 give them, one lemma for each command.
-/

namespace Sys2Proof.Laws.EncodedFields

/-- The fields `(reserved, ARG, N, CH, OPC)` that a command's word must have (R92 to R96). -/
def expected : Instr → BitVec 8 × BitVec 8 × BitVec 8 × BitVec 4 × BitVec 4
  | .nop => (0, 0, 0, 0, 0)
  | .fft n => (0, 0, n, 0, 1)
  | .dct2 n => (0, 0, n, 0, 2)
  | .dct3 n => (0, 0, n, 0, 3)
  | .dct4 n => (0, 0, n, 0, 4)
  | .dst2 n => (0, 0, n, 0, 5)
  | .dst4 n => (0, 0, n, 0, 6)
  | .ainit ch m => (0, if m = .lp then 1 else 0, 0, ch, 8)
  | .qmfa ch kx => (0, kx, 0, ch, 9)
  | .sinit ch m => (0, if m = .lp then 1 else 0, 0, ch, 10)
  | .qmfs ch nb => (0, nb, 0, ch, 11)

/-- The encoded word has exactly these fields. -/
def Statement (i : Instr) : Prop :=
  (fieldReserved (encode i), fieldArg (encode i), fieldN (encode i), fieldCh (encode i), fieldOpc (encode i)) =
    expected i

theorem nop : Statement .nop := by simp [Statement, expected, encode]
theorem fft (n : BitVec 8) : Statement (.fft n) := by simp [Statement, expected, encode]
theorem dct2 (n : BitVec 8) : Statement (.dct2 n) := by simp [Statement, expected, encode]
theorem dct3 (n : BitVec 8) : Statement (.dct3 n) := by simp [Statement, expected, encode]
theorem dct4 (n : BitVec 8) : Statement (.dct4 n) := by simp [Statement, expected, encode]
theorem dst2 (n : BitVec 8) : Statement (.dst2 n) := by simp [Statement, expected, encode]
theorem dst4 (n : BitVec 8) : Statement (.dst4 n) := by simp [Statement, expected, encode]
theorem ainit (ch : BitVec 4) (mode : Mode) : Statement (.ainit ch mode) := by
  cases mode <;> simp [Statement, expected, encode, Mode.toBit]
theorem qmfa (ch : BitVec 4) (kx : BitVec 8) : Statement (.qmfa ch kx) := by simp [Statement, expected, encode]
theorem sinit (ch : BitVec 4) (mode : Mode) : Statement (.sinit ch mode) := by
  cases mode <;> simp [Statement, expected, encode, Mode.toBit]
theorem qmfs (ch : BitVec 4) (nb : BitVec 8) : Statement (.qmfs ch nb) := by simp [Statement, expected, encode]

end Sys2Proof.Laws.EncodedFields
end

