-- ==== Sys2Proof/Laws/Reference.lean ====
section
/-!
SUPPORT. Laws/Reference.lean: the entries of the reference history of synthesis (spec/44_qmf_synthesis.md R232).
-/

namespace Sys2Proof.Machine.Reference

@[simp] theorem synthesisStart_apply (i : Nat) : synthesisStart i = 0 := rfl

/-- The new block stands in front. -/
theorem synthesisHistory_of_lt (W block : Nat → ℝ) {i : Nat} (h : i < 128) :
    synthesisHistory W block i = block i := by
  simp [synthesisHistory, h]

/-- Every older entry is 128 places up. -/
@[simp] theorem synthesisHistory_add (W block : Nat → ℝ) (i : Nat) : synthesisHistory W block (i + 128) = W i := by
  simp [synthesisHistory]

@[simp] theorem synthesisBlock_hq (a b : Nat → ℝ) (n : Nat) : synthesisBlock .hq a b n = synthesisHq a b n := rfl

@[simp] theorem synthesisBlock_lp (a b : Nat → ℝ) (n : Nat) : synthesisBlock .lp a b n = synthesisLp a n := rfl

end Sys2Proof.Machine.Reference
end

