-- ==== Sys2Proof/Tests/Slice0.lean ====
section
/-!
SUPPORT. Tests/Slice0.lean: small tests of the model against the examples of spec/ (each names its source), and, for
every statement with hypotheses, a state and operands that meet them (the theorems `test_meets_…`).
-/

namespace Sys2Proof.Tests

set_option Elab.async false

open Sys2Proof
open Sys2Proof.Machine
open Sys2Proof.Stating

/-! The states the tests share. -/

/-- `PROTO_T` (spec/95_test_vectors.md section 2.1). -/
def protoT : Vector Word 640 :=
  tabulate 640 fun i => wrap32 (((((37 * i + 11) % 257 : Nat) : Int) - 128) * 2097152)

/-- A buffer that holds `v` at index `i` and 0 elsewhere. -/
def impulse (i : Nat) (v : Int) : Vector Word 64 := tabulate 64 fun j => if j = i then wrap32 v else 0#32

/-- A block of two contexts of each kind, context 0 constructed in HQ mode and context 1 in LP mode. -/
def built : State :=
  { State.resetWith 2 protoT with
    channels := [⟨anaInit .hq, synInit .hq⟩, ⟨anaInit .lp, synInit .lp⟩] }

/-- A block of one context of each kind, out of reset, with one event pending. -/
def pending (e : HostEvent) : State := { State.resetWith 1 protoT with port := [e] }

/-- The same, after a fault. -/
def faulted (e : HostEvent) : State := (pending e).raiseFault .opc 7#32

/-- The words that reads of `offs` return after an outcome. -/
def readBack (o : Out) (offs : List Nat) : List Int :=
  match o with
  | .next t => offs.map fun off => (busRead t off).toInt
  | _ => []

/-- The offsets of the first `n` words of the buffer at `base`. -/
def buffer (base n : Nat) : List Nat := (List.range n).map fun i => base + 4 * i

/-! Well-formedness: an ill-formed term for each check. -/

theorem test_wf_fft_size : (Instr.fft 24#8).wellFormed 2 = false := by decide
theorem test_wf_dct2_size : (Instr.dct2 0#8).wellFormed 2 = false := by decide
theorem test_wf_dct3_size : (Instr.dct3 128#8).wellFormed 2 = false := by decide
theorem test_wf_dct4_size : (Instr.dct4 48#8).wellFormed 2 = false := by decide
theorem test_wf_dst2_size : (Instr.dst2 255#8).wellFormed 2 = false := by decide
theorem test_wf_dst4_size : (Instr.dst4 8#8).wellFormed 2 = false := by decide
theorem test_wf_ainit_channel : (Instr.ainit 2#4 .hq).wellFormed 2 = false := by decide
theorem test_wf_sinit_channel : (Instr.sinit 2#4 .lp).wellFormed 2 = false := by decide
theorem test_wf_qmfa_channel : (Instr.qmfa 2#4 32#8).wellFormed 2 = false := by decide
theorem test_wf_qmfa_bands : (Instr.qmfa 1#4 33#8).wellFormed 2 = false := by decide
theorem test_wf_qmfs_channel : (Instr.qmfs 2#4 64#8).wellFormed 2 = false := by decide
theorem test_wf_qmfs_bands : (Instr.qmfs 1#4 65#8).wellFormed 2 = false := by decide
theorem test_wf_legal : [Instr.nop, .fft 16#8, .dct4 64#8, .ainit 1#4 .lp, .qmfa 1#4 32#8, .sinit 0#4 .hq,
    .qmfs 0#4 64#8].all (·.wellFormed 2) = true := by decide

/-! Decoding, one word for each row of the table, written out from the formats (R93 to R96). -/

theorem test_decode_nop : decode 0x00000000#32 = .ok .nop := by decide
theorem test_decode_fft : decode 0x00001001#32 = .ok (.fft 16#8) := by decide
theorem test_decode_dct2 : decode 0x00002002#32 = .ok (.dct2 32#8) := by decide
theorem test_decode_dct3 : decode 0x00004003#32 = .ok (.dct3 64#8) := by decide
theorem test_decode_dct4 : decode 0x00001804#32 = .ok (.dct4 24#8) := by decide
theorem test_decode_dst2 : decode 0x00001005#32 = .ok (.dst2 16#8) := by decide
theorem test_decode_dst4 : decode 0x00004006#32 = .ok (.dst4 64#8) := by decide
theorem test_decode_ainit : decode 0b00000000000000010000000000011000#32 = .ok (.ainit 1#4 .lp) := by decide
theorem test_decode_qmfa : decode 0b00000000001000000000000000011001#32 = .ok (.qmfa 1#4 32#8) := by decide
theorem test_decode_sinit : decode 0b00000000000000000000000000111010#32 = .ok (.sinit 3#4 .hq) := by decide
theorem test_decode_qmfs : decode 0b00000000000011010000000000011011#32 = .ok (.qmfs 1#4 13#8) := by decide

/-- Illegal words of R260 and R273. -/
theorem test_decode_illegal :
    decode 0xFF00000F#32 = .error .opc ∧ decode 0x00000007#32 = .error .opc ∧ decode 0x0000000C#32 = .error .opc ∧
    decode 0x00011801#32 = .error .enc ∧ decode 0x00000100#32 = .error .enc ∧ decode 0x01000000#32 = .error .enc ∧
    decode 0x00020008#32 = .error .enc ∧ decode 0x00000109#32 = .error .enc := by decide

/-- The words of R93 and R100 encode their commands. -/
theorem test_encode_words :
    encode (.fft 64#8) = 0x00004001#32 ∧ encode (.dct4 24#8) = 0x00001804#32 ∧
    encode (.ainit 1#4 .lp) = 0x00010018#32 ∧ encode (.qmfa 1#4 32#8) = 0x00200019#32 ∧
    encode (.qmfs 1#4 64#8) = 0x0040001B#32 := by decide

theorem test_decode_table_word : decodeTableWord 32 0x00200019 = some (.qmfa 1#4 32#8) := by decide

/-! Numeric primitives (spec/95_test_vectors.md section 2.2). -/

theorem test_wr : wr (2147483647 + 1) = ⟨wrap32 (-2147483648), true⟩ ∧
    wr (2 * -1073741824) = ⟨wrap32 (-2147483648), false⟩ ∧ wr (-2147483648 - 1) = ⟨wrap32 2147483647, true⟩ := by
  decide

theorem test_rnd : rnd (3 * 2 ^ 29) 30 = ⟨2#32, false⟩ ∧ rnd (-3 * 2 ^ 29) 30 = ⟨wrap32 (-1), false⟩ ∧
    rnd (-2 ^ 29) 30 = ⟨0#32, false⟩ ∧ rnd (-2 ^ 29 - 1) 30 = ⟨wrap32 (-1), false⟩ ∧
    rnd (2 ^ 61 - 2 ^ 29) 30 = ⟨wrap32 (-2147483648), true⟩ := by decide

theorem test_rshr : rshr 95#32 6 = 1#32 ∧ rshr 96#32 6 = 2#32 ∧ rshr (wrap32 (-96)) 6 = wrap32 (-1) ∧
    rshr (wrap32 (-97)) 6 = wrap32 (-2) ∧ rshr 0x7FFFFFFF#32 6 = wrap32 33554432 ∧
    rshr (wrap32 (-17)) 5 = wrap32 (-1) ∧ rshr (wrap32 (-16)) 5 = 0#32 := by decide

theorem test_rot : rotRe 1000#32 2000#32 255 = ⟨wrap32 (-975), false⟩ ∧
    rotIm 1000#32 2000#32 255 = ⟨wrap32 (-2012), false⟩ ∧
    rotIm (wrap32 (-2147483648)) 0#32 128 = ⟨wrap32 (-2147483648), true⟩ ∧
    rotRe 0x7FFFFFFF#32 0x7FFFFFFF#32 64 = ⟨wrap32 (-1257966797), true⟩ := by decide

/-! The commands. -/

/-- R260: the all-zero word, through the port. -/
theorem test_nop_step : step (State.reset.withFetchWord 32 0) = .next State.reset := by rfl

/-- The example of R150 (vector F1). -/
theorem test_fft_16 : readBack (exec (.fft 16#8) { built with xre := impulse 1 1048576 })
      ([0x008] ++ buffer 0x600 16 ++ buffer 0x700 4) =
    [0, 1048576, 968758, 741455, 401272, 0, -401273, -741455, -968758, -1048576, -968758, -741455, -401272, 0,
      401273, 741455, 968758, 0, -401273, -741455, -968758] := by decide +kernel

/-- Vector F6: `2^27` sixteen times reaches `2^31` and wraps. -/
theorem test_fft_16_overflow :
    readBack (exec (.fft 16#8) { built with xre := tabulate 64 fun _ => 0x08000000#32 }) [0x008, 0x600, 0x604] =
      [2, -2147483648, 0] := by decide +kernel

/-- The example of R171 (vector T1). -/
theorem test_dct2_16 : readBack (exec (.dct2 16#8) { built with xre := impulse 0 1048576 }) (buffer 0x600 16) =
    [1048576, 1043527, 1028428, 1003425, 968758, 924761, 871859, 810560, 741455, 665210, 582558, 494295, 401273,
      304386, 204567, 102778] := by decide +kernel

/-- The example of R172 (vector T8). -/
theorem test_dct3_16 : readBack (exec (.dct3 16#8) { built with xre := impulse 1 1048576 }) (buffer 0x600 16) =
    [1043527, 1003425, 924762, 810560, 665210, 494295, 304386, 102778, -102778, -304386, -494295, -665210, -810560,
      -924762, -1003425, -1043527] := by decide +kernel

/-- The example of R173 (vector T13). -/
theorem test_dct4_16 : readBack (exec (.dct4 16#8) { built with xre := impulse 0 1048576 }) (buffer 0x600 16) =
    [1047313, 1037227, 1017152, 987280, 947902, 899394, 842224, 776943, 704181, 624636, 539076, 448324, 353255,
      254783, 153858, 51451] := by decide +kernel

/-- The example of R174. -/
theorem test_dst2_16 : readBack (exec (.dst2 16#8) { built with xre := impulse 0 1048576 }) (buffer 0x600 16) =
    [102778, 204567, 304386, 401273, 494295, 582558, 665210, 741455, 810560, 871859, 924761, 968758, 1003425,
      1028428, 1043527, 1048576] := by decide +kernel

/-- The example of R175. -/
theorem test_dst4_16 : readBack (exec (.dst4 16#8) { built with xre := impulse 0 1048576 }) (buffer 0x600 16) =
    [51451, 153858, 254783, 353255, 448323, 539076, 624636, 704181, 776943, 842225, 899394, 947902, 987280,
      1017152, 1037227, 1047313] := by decide +kernel

/-- R173: a size that is not 16, 32 or 64 (`dct4 24` of R100). -/
theorem test_dct4_size_fault : readBack (step (State.reset.withFetchWord 32 0x1804)) [0x008, 0x010] =
    [0x31, 0x1804] := by decide +kernel

/-- The example of R201: `CTXVALID` and `CTXMODE` after `ainit 1, lp`. -/
theorem test_ainit_lp : readBack (step (State.reset.withFetchWord 32 0x00010018)) [0x014, 0x018, 0x01C] =
    [2, 2, 0] := by decide +kernel

/-- The example of R231: `CTXVALID`, `CTXMODE` and `VIDX` after `sinit 0, hq`. -/
theorem test_sinit_hq : readBack (step (State.reset.withFetchWord 32 0xA)) [0x014, 0x018, 0x01C] =
    [0x10000, 0, 0] := by decide +kernel

/-- The example of R203, its windowed sums: `u[0]`. -/
theorem test_qmfa_window :
    (wordAt (awindow protoT (ahist (anaInit .hq).hist (impulse 31 1048576))).val 0).toInt = -239616 := by
  decide +kernel

/-- The example of R203, its high-quality modulation: `YRE[1]` and `YIM[1]`. -/
theorem test_qmfa_hq_re :
    (wordAt (amodHq (wrap32 (-239616) :: List.replicate 63 0#32)).re 1).toInt = -478908 := by decide +kernel

/-- Vector A2, its low-power modulation: `YRE[1]`. -/
theorem test_qmfa_lp_re :
    (wordAt (amodLp (wrap32 (-239616) :: List.replicate 63 0#32)).re 1).toInt = -338868 := by decide +kernel

/-- R208: a band at `kx` is 0, whatever stood there. -/
theorem test_qmfa_zero_fill :
    readBack (exec (.qmfa 1#4 1#8) { built with xre := impulse 31 1048576, yre := impulse 1 5 }) [0x604] = [0] := by
  decide +kernel

/-- The first example of R233. -/
theorem test_qmfs_hq : readBack (exec (.qmfs 0#4 64#8) { built with xre := impulse 0 1048576 })
    [0x61C] = [3618] := by decide +kernel

/-- The first example of R233: `VIDX` after the slot. -/
theorem test_qmfs_hq_vidx : readBack (exec (.qmfs 0#4 64#8) { built with xre := impulse 0 1048576 })
    [0x01C] = [1] := by decide +kernel

/-- The second example of R233. -/
theorem test_qmfs_lp : readBack (exec (.qmfs 1#4 64#8) { built with xre := impulse 0 1048576 })
    [0x61C] = [-6018] := by decide +kernel

/-- The four examples of R273, on a block of two contexts. -/
theorem test_fault_priority :
    readBack (step (State.reset.withFetchWord 32 0xFF00000F)) [0x008] = [0x11] ∧
    readBack (step (State.reset.withFetchWord 32 0x00011801)) [0x008] = [0x21] ∧
    readBack (step (State.reset.withFetchWord 32 0x00FF00F9)) [0x008] = [0x41] ∧
    readBack (step (State.reset.withFetchWord 32 0x00210019)) [0x008] = [0x51] ∧
    readBack (step (State.reset.withFetchWord 32 0x00000009)) [0x008] = [0x61] := by decide +kernel

/-- R31, R32: the two constant registers of the reference block. -/
theorem test_id_cfg : busRead State.reset 0x000 = 0x514D4607#32 ∧ busRead State.reset 0x004 = 2#32 := by
  decide +kernel

/-! The hypotheses of the statements can be met. Each theorem names its statement. -/

theorem test_meets_DecodedWordIsTheEncodedCommand :
    decode 0x0040001B#32 = .ok (.qmfs 1#4 64#8) ∧ decode 0x0000FF06#32 = .ok (.dst4 255#8) := by decide

theorem test_meets_DecoderSelectsTheOpcodeRow :
    (∃ r ∈ opcodeRows, r.matchesWord 0x00001801#32 = true) ∧
    (∀ r ∈ opcodeRows, r.matchesWord 0x0000000F#32 = false) ∧
    (∀ r ∈ opcodeRows, r.matchesWord 0x00000100#32 = false) := by decide

theorem test_meets_StepRunsTheDecodedCommand :
    let s := pending (commandWrite 0x00010018#32)
    (State.resetWith 1 protoT).port = [] ∧ (pending (.read 0x3FF#10)).port = .read 0x3FF#10 :: [] ∧
    (pending (.write 0x100#10 5#32)).port = .write 0x100#10 5#32 :: [] ∧
    s.fault = false ∧ s.port = commandWrite 0x00010018#32 :: [] ∧ decode 0x00010018#32 = .ok (.ainit 1#4 .lp) := by
  decide +kernel

theorem test_meets_FaultEntryWritesTheFaultRecordOnly :
    built.fault = false ∧ decode 0x00000007#32 = .error .opc ∧ decode 0x00000100#32 = .error .enc := by decide +kernel

/-- One word for each cause and for each command of R91, at the bounds, on a block whose contexts 0 and 1 are
constructed. -/
theorem test_meets_CommandWordRunsOrFaultsAsR91Orders :
    built.fault = false ∧
    [0xFF00000F#32, 0x00000010#32, 0x00011801#32, 0x00001801#32, 0x00000028#32, 0x00FF00F9#32, 0x00210019#32,
      0x0041001B#32].map (causeOfR91 built) =
      [some .opc, some .enc, some .enc, some .size, some .chan, some .chan, some .arg, some .arg] ∧
    causeOfR91 (pending .reset) 0x00200009#32 = some .uninit ∧
    causeOfR91 (pending .reset) 0x0040000B#32 = some .uninit ∧
    [0x00000000#32, 0x00001001#32, 0x00004006#32, 0x00010018#32, 0x0000001A#32, 0x00200019#32, 0x0040001B#32,
      0x0000000B#32].map (causeOfR91 built) = List.replicate 8 none := by decide +kernel

theorem test_meets_FaultedBlockIgnoresEveryWrite :
    (faulted .reset).fault = true ∧ 0x000 ≠ 0x008 ∧ 0xFFC ≠ 0x008 := by decide +kernel

theorem test_meets_BusReadReturnsTheMappedWord :
    (State.resetWith 16 protoT).nch ≤ 16 ∧ reservedOffset 0x020 ∧ reservedOffset 0x3FC ∧ reservedOffset 0x800 ∧
    reservedOffset 0xFFC := by simp only [reservedOffset]; decide +kernel

/-- The offsets at the bounds of the clauses: reserved, read-only and result offsets for the first, `STATUS` for the
second, reserved offsets for the third. -/
theorem test_meets_ReservedAndReadOnlyOffsetsIgnoreWrites :
    (∀ off ∈ [0x000, 0x004, 0x010, 0x01C, 0x020, 0x3FC, 0x600, 0x7FC, 0x800, 0xFFC],
      off ≠ 0x008 ∧ off ≠ 0x00C ∧ ¬ (0x400 ≤ off ∧ off < 0x600)) ∧
    reservedOffset 0x020 ∧ reservedOffset 0x3FC ∧ reservedOffset 0x800 := by simp only [reservedOffset]; decide

theorem test_meets_OperandWriteStoresTheWord : built.fault = false ∧ (1 : Fin 64) ≠ 0 ∧ (62 : Fin 64) ≠ 63 := by
  decide +kernel

/-- R64: the last words of the two operand buffers and of the window, through the port. -/
theorem test_write_through_the_port :
    readBack (step (pending (.write 0x13F#10 5#32))) [0x4FC, 0x500] = [5, 0] ∧
    readBack (step (pending (.write 0x17F#10 5#32))) [0x5FC, 0x600] = [5, 0] ∧
    readBack (step (pending (.write 0x180#10 5#32))) [0x600] = [0] := by decide +kernel

theorem test_meets_StatusReadsItsFields :
    built.Inv ∧ built.fault = false ∧ (faulted .reset).Inv ∧ (faulted .reset).fault = true := by decide +kernel

theorem test_meets_ContextRegistersReadOneBitPerContext :
    built.nch ≤ 16 ∧ 1 < built.nch ∧ ¬ (2 < built.nch) ∧ ¬ (16 ≤ 2 ∧ 2 < 16 + built.nch) ∧
    ¬ (18 < built.nch) ∧ ¬ (16 ≤ 18 ∧ 18 < 16 + built.nch) ∧
    (State.resetWith 16 protoT).nch ≤ 16 ∧ 15 < (State.resetWith 16 protoT).nch ∧
    ¬ (16 < (State.resetWith 16 protoT).nch) := by decide +kernel

theorem test_meets_ResetLeavesTheStatedValues : (faulted .reset).port = .reset :: [] := by decide +kernel

theorem test_meets_ResetSatisfiesTheInvariants : 1 ≤ 1 ∧ 1 ≤ 16 ∧ 16 ≤ 16 := by decide

theorem test_meets_StepKeepsTheInvariants :
    (pending (commandWrite 0x7#32)).Inv ∧
    step (pending (commandWrite 0x7#32)) = .next ((State.resetWith 1 protoT).raiseFault .opc 0x7#32) :=
  ⟨by decide +kernel, rfl⟩

/-- The bounds of each check: sizes next to the legal ones, the first context that is not there, the first bands past
the limits, the last within them on a context that is not constructed. -/
theorem test_meets_FieldChecksRaiseTheirFaults :
    (∀ n ∈ [0#8, 15#8, 17#8, 63#8, 255#8], n.toNat ≠ 16 ∧ n.toNat ≠ 32 ∧ n.toNat ≠ 64) ∧
    built.nch ≤ (2#4).toNat ∧ (1#4).toNat < built.nch ∧ 32 < (33#8).toNat ∧ 64 < (65#8).toNat ∧
    (0#4).toNat < (pending .reset).nch ∧ (32#8).toNat ≤ 32 ∧ anaValid (pending .reset) 0 = false ∧
    (64#8).toNat ≤ 64 ∧ synValid (pending .reset) 0 = false := by decide +kernel

theorem test_meets_NopChangesNothing :
    ((0x10#32).toNat % 16 = 0 ∧ 0x10#32 ≠ 0#32) ∧ ((0x80000000#32).toNat % 16 = 0 ∧ 0x80000000#32 ≠ 0#32) := by decide

/-- The hypothesis on the size of `FftStoresTheTransform`, `TransformCommandsRunTheirEngines` and
`TransformOfZeroIsZero`. -/
theorem test_meets_FftStoresTheTransform :
    (16#8).toNat = Size.n16.points ∧ (32#8).toNat = Size.n32.points ∧ (64#8).toNat = Size.n64.points := by decide

theorem test_meets_TransformCommandsRunTheirEngines :
    (16#8).toNat = Size.n16.points ∧ (32#8).toNat = Size.n32.points ∧ (64#8).toNat = Size.n64.points := by decide

theorem test_meets_AinitConstructsTheContext :
    built.channels[(0#4).toNat]? = some ⟨anaInit .hq, synInit .hq⟩ ∧
    (pending .reset).channels[(0#4).toNat]? = some Channel.reset := ⟨rfl, rfl⟩

theorem test_meets_SinitConstructsTheContext :
    built.channels[(1#4).toNat]? = some ⟨anaInit .lp, synInit .lp⟩ ∧
    (State.resetWith 16 protoT).channels[(15#4).toNat]? = some Channel.reset := ⟨rfl, rfl⟩

theorem test_meets_QmfaStoresOneFrame :
    built.channels[(0#4).toNat]? = some ⟨anaInit .hq, synInit .hq⟩ ∧ (anaInit .hq).valid = true ∧
    built.channels[(1#4).toNat]? = some ⟨anaInit .lp, synInit .lp⟩ ∧ (anaInit .lp).valid = true ∧
    (0#8).toNat ≤ 32 ∧ (32#8).toNat ≤ 32 := ⟨rfl, rfl, rfl, rfl, by decide, by decide⟩

theorem test_meets_QmfsHqStoresOneSlot :
    built.channels[(0#4).toNat]? = some ⟨anaInit .hq, synInit .hq⟩ ∧ (synInit .hq).valid = true ∧
    (synInit .hq).mode = .hq ∧ (0#8).toNat ≤ 64 ∧ (64#8).toNat ≤ 64 := ⟨rfl, rfl, rfl, by decide, by decide⟩

theorem test_meets_QmfsLpStoresOneSlot :
    built.channels[(1#4).toNat]? = some ⟨anaInit .lp, synInit .lp⟩ ∧ (synInit .lp).valid = true ∧
    (synInit .lp).mode = .lp ∧ (0#8).toNat ≤ 64 ∧ (64#8).toNat ≤ 64 := ⟨rfl, rfl, rfl, by decide, by decide⟩

/-- Sixteen different words. -/
def ramp : List Word := (List.range 16).map fun i => BitVec.ofNat 32 (1000 * i + 7)

theorem test_meets_Dct2FollowsItsDatapath :
    let v := (List.range 16).map fun i => if i < 8 then wordAt ramp (2 * i) else wordAt ramp (2 * (15 - i) + 1)
    v.length = Size.n16.points ∧
    ∀ n, n < Size.n16.points / 2 →
      wordAt v n = wordAt ramp (2 * n) ∧ wordAt v (Size.n16.points - 1 - n) = wordAt ramp (2 * n + 1) := by
  decide +kernel

theorem test_meets_Dct3FollowsItsDatapath :
    let z := preRotate 16 ramp fun k => k * (128 / 16)
    z.re.length = Size.n16.points ∧ z.im.length = Size.n16.points ∧
    ∀ k, k < Size.n16.points →
      wordAt z.re k = (rotRe (wordAt ramp k) 0#32 (k * (128 / Size.n16.points))).val ∧
      wordAt z.im k = (rotIm (wordAt ramp k) 0#32 (k * (128 / Size.n16.points))).val := by decide +kernel

theorem test_meets_Dct4FollowsItsDatapath :
    let z := preRotate 16 ramp fun k => (2 * k + 1) * (64 / 16)
    z.re.length = Size.n16.points ∧ z.im.length = Size.n16.points ∧
    ∀ n, n < Size.n16.points →
      wordAt z.re n = (rotRe (wordAt ramp n) 0#32 ((2 * n + 1) * (64 / Size.n16.points))).val ∧
      wordAt z.im n = (rotIm (wordAt ramp n) 0#32 ((2 * n + 1) * (64 / Size.n16.points))).val := by decide +kernel

theorem test_meets_DstEnginesReverseAndAlternate :
    let xa := (negateOdd 16 ramp).val
    let xm := ramp.set 1 0x80000000#32
    (xa.length = Size.n16.points ∧ ∀ n, n < Size.n16.points →
      wordAt xa n = if n % 2 = 0 then wordAt ramp n else (wr (-(wordAt ramp n).toInt)).val) ∧
    (ramp.reverse.length = Size.n16.points ∧ ∀ n, n < Size.n16.points →
      wordAt ramp.reverse n = wordAt ramp (Size.n16.points - 1 - n)) ∧
    (1 < Size.n16.points ∧ 1 % 2 = 1 ∧ wordAt xm 1 = 0x80000000#32) := by decide +kernel

theorem test_meets_TenSlotsReplaceTheAnalysisHistory :
    let xs := (List.range 10).map fun i => impulse i 5
    xs.length = 10 ∧ xs[9 - 0]? = some (impulse 9 5) ∧ xs[9 - 9]? = some (impulse 0 5) := ⟨rfl, rfl, rfl⟩

/-- The clauses of the fold at the bounds of their ranges (R206): entries 0, 1, 15, 16 and 31. -/
theorem test_meets_AnalysisStepsFollowTheirFormulas :
    let u := (List.range 64).map fun i => BitVec.ofNat 32 (i * i)
    [0, 1, 15, 16, 31].map (fun n => (wordAt (lpFold u).val n).toInt) =
      [48 * 48, 49 * 49 + 47 * 47, 63 * 63 + 33 * 33, 32 * 32, 17 * 17 - 15 * 15] ∧
    [0, 1, 2, 61, 62, 63].map (fun n => (wordAt (hqSequence u).val n).toInt) =
      [0, 1, -(63 * 63), 31 * 31, -(33 * 33), 32 * 32] := by decide +kernel

/-- The clauses of the scatter at the bounds of their ranges (R239), and the two halves of the combination (R235). -/
theorem test_meets_SynthesisStepsFollowTheirFormulas :
    let d := (List.range 64).map fun i => BitVec.ofNat 32 (100 + i)
    let t := (List.range 64).map fun i => BitVec.ofNat 32 (200 + i)
    [0, 31, 32, 95, 96, 97, 127].map (fun n => (wordAt (lpScatter d t) n).toInt) =
      [132, 101, 100, 163, 0, 200, 230] ∧
    [0, 1, 63, 64, 126, 127].map (fun n => (wordAt (hqCombine d t).val n).toInt) =
      [200 - 100, -201 - 101, -263 - 163, -263 + 163, -201 + 101, 200 + 100] := by decide +kernel

theorem test_meets_HqRegionAlternatesTheHalvesOfTenSlots :
    let vs := List.replicate 10 (List.replicate 128 7#32)
    vs.length = 10 ∧ vs[9 - 0]? = some (List.replicate 128 7#32) ∧
    vs[9 - 9]? = some (List.replicate 128 7#32) := by decide +kernel

theorem test_meets_BandCountMasksTheOperands :
    let s := { built with xre := tabulate 64 fun _ => 9#32, xim := tabulate 64 fun _ => 4#32 }
    let s' := { s with xre := tabulate 64 fun i => if i < 32 then 9#32 else 0#32,
                       xim := tabulate 64 fun i => if i < 32 then 4#32 else 0#32 }
    s.channels[(0#4).toNat]? = some ⟨anaInit .hq, synInit .hq⟩ ∧ (synInit .hq).valid = true ∧ (32#8).toNat ≤ 64 ∧
    s' = { s with xre := s'.xre, xim := s'.xim } ∧
    ∀ i, i < 64 → entry s'.xre i = (if i < (32#8).toNat then entry s.xre i else 0#32) ∧
      entry s'.xim i = (if i < (32#8).toNat then entry s.xim i else 0#32) :=
  ⟨rfl, rfl, by decide, rfl, by decide +kernel⟩

theorem test_meets_NoCommandWritesTheOperands :
    exec (.sinit 0#4 .lp) built = .next (built.setSyn 0 (synInit .lp)) := rfl

theorem test_meets_ContextsChangeByTheirOwnCommandsOnly :
    exec (.sinit 0#4 .lp) built = .next (built.setSyn 0 (synInit .lp)) ∧
    (∀ m, Instr.sinit 0#4 .lp ≠ .ainit 0#4 m) ∧ (∀ kx, Instr.sinit 0#4 .lp ≠ .qmfa 0#4 kx) ∧
    exec (.ainit 1#4 .hq) built = .next (built.setAna 1 (anaInit .hq)) ∧
    (∀ m, Instr.ainit 1#4 .hq ≠ .sinit 1#4 m) ∧ (∀ nb, Instr.ainit 1#4 .hq ≠ .qmfs 1#4 nb) :=
  ⟨rfl, nofun, nofun, rfl, nofun, nofun⟩

theorem test_meets_OnlyResetClearsFaultAndValid :
    let s := { built with port := [commandWrite 0x7#32] }
    (step s = .next (built.raiseFault .opc 0x7#32) ∧ s.fault = false ∧ (built.raiseFault .opc 0x7#32).fault = true) ∧
    (s.port.head? ≠ some .reset ∧ anaValid s 0 = true ∧ synValid s 1 = true) ∧
    ((faulted (commandWrite 0#32)).fault = true ∧ (faulted (commandWrite 0#32)).port.head? ≠ some .reset) :=
  ⟨⟨rfl, rfl, rfl⟩, by decide +kernel, by decide +kernel⟩

/-- `OVF` cleared by the host, and by reset. -/
theorem test_meets_OverflowFlagIsSticky :
    (let s := { built with ovf := true, port := [.write 2#10 2#32] }
     step s = .next built ∧ s.ovf = true ∧ built.ovf = false) ∧
    (let s := { State.resetWith 1 protoT with ovf := true, port := [.reset] }
     step s = .next (State.resetWith 1 protoT) ∧ s.ovf = true ∧ (State.resetWith 1 protoT).ovf = false) :=
  ⟨⟨rfl, rfl, rfl⟩, ⟨rfl, rfl, rfl⟩⟩

/-- The block `built`, with another context 1, other operands that the slot does not read, and other flags. -/
def builtOtherwise : State :=
  { built with
    channels := [⟨anaInit .hq, synInit .hq⟩, Channel.reset], ovf := true, yre := impulse 3 8
    xre := tabulate 64 fun i => if i < 32 then 0#32 else 6#32 }

theorem test_meets_SlotDependsOnItsOwnContextOnly :
    (built.channels[(0#4).toNat]? = some ⟨anaInit .hq, synInit .hq⟩ ∧
      builtOtherwise.channels[(0#4).toNat]? = some ⟨anaInit .hq, synInit .hq⟩ ∧
      builtOtherwise.proto = built.proto ∧ (anaInit .hq).valid = true ∧ (32#8).toNat ≤ 32) ∧
    (∀ j, j < 32 → entry builtOtherwise.xre j = entry built.xre j) ∧
    (let s' := { builtOtherwise with xre := built.xre }
     s'.channels[(0#4).toNat]? = some ⟨anaInit .hq, synInit .hq⟩ ∧ s'.proto = built.proto ∧ s'.xre = built.xre ∧
      s'.xim = built.xim ∧ (synInit .hq).valid = true ∧ (64#8).toNat ≤ 64) :=
  ⟨⟨rfl, rfl, rfl, rfl, by decide⟩, by decide +kernel, ⟨rfl, rfl, rfl, rfl, rfl, by decide⟩⟩

/-- A block out of reset whose one analysis history holds `w` everywhere. -/
def unseen (w : Word) : State :=
  { pending (commandWrite 0x7#32) with
    channels := [⟨⟨Vector.replicate 320 w, false, .hq⟩, SynCtx.reset⟩] }

theorem test_meets_UnconstructedHistoryIsUnobservable :
    SameButUnseen (unseen 1#32) (unseen 2#32) ∧
    step (unseen 1#32) = .next (({ unseen 1#32 with port := [] } : State).raiseFault .opc 0x7#32) := by
  refine ⟨⟨rfl, rfl, ?_⟩, rfl⟩
  intro c ch ch' h h'
  match c with
  | 0 =>
    cases h; cases h'
    exact ⟨rfl, rfl, nofun, fun _ => rfl⟩
  | c + 1 => cases h

theorem test_meets_FftCoreIsBuiltFromTwoHalves :
    let w : Work := { re := ramp, im := ramp, mark := false }
    w.re.length = 2 ^ (3 + 1) ∧ w.im.length = 2 ^ (3 + 1) := by decide +kernel

theorem test_meets_ButterfliesOfAStageCommute :
    (stageButterflies 16 4).reverse.Perm (stageButterflies 16 4) := List.reverse_perm _

theorem test_meets_BitReversalIsItsOwnInverse : 0 < 2 ^ 0 ∧ 63 < 2 ^ 6 ∧ 5 < 6 := by decide

/-- `WR` inside and outside `s32`, on both sides of both bounds, and the shifts of `RND` and `RSHR`. -/
theorem test_meets_NumericPrimitivesRoundAndWrap :
    (wr 2147483647).mark = false ∧ (wr (-2147483648)).mark = false ∧
    (wr 2147483648).mark = true ∧ (wr (-2147483649)).mark = true ∧ 1 ≤ 1 ∧ 1 ≤ 30 ∧ (5 = 5 ∨ 5 = 6) := by decide

theorem test_meets_TransformOfZeroIsZero :
    (64#8).toNat = Size.n64.points ∧
    (∀ k, k < Size.n64.points → entry State.reset.xre k = 0#32 ∧ entry State.reset.xim k = 0#32) := by
  decide +kernel

theorem test_meets_ConstantsAndImpulsesTransformExactly :
    (16#8).toNat = Size.n16.points ∧ (∀ k, k < Size.n16.points → entry built.xim k = 0#32) ∧
    (∀ k, k < Size.n16.points →
      entry ({ built with xre := tabulate 64 fun _ => 7#32 } : State).xre k = 7#32) ∧
    (∀ k, k < Size.n16.points →
      entry ({ built with xre := impulse 0 7 } : State).xre k = if k = 0 then 7#32 else 0#32) := by decide +kernel

theorem test_meets_TwiddleTablesPassTheirChecks :
    [0, 64, 128].map twc = [1073741824, 759250125, 0] ∧ [0, 64, 128].map tws = [0, 759250125, 1073741824] := by
  decide +kernel

theorem test_meets_TwiddleEntriesAreNearestIntegers : 0 < 256 ∧ 255 < 256 := by decide

/-- Operands at the bound `2^29 / N` on both sides. -/
theorem test_meets_BoundedOperandsNeverOverflow :
    let s := { built with xre := tabulate 64 fun _ => wrap32 8388608, xim := tabulate 64 fun _ => wrap32 (-8388608) }
    (64#8).toNat = Size.n64.points ∧
    (∀ k, k < Size.n64.points → atMost (2 ^ 29 / Size.n64.points) (entry s.xre k)) ∧
    Instr.fft 64#8 ∈ transforms 64#8 ∧
    ∀ k, k < Size.n64.points → atMost (2 ^ 29 / Size.n64.points) (entry s.xim k) := by
  simp only [atMost]; decide +kernel

theorem test_meets_FftMatchesTheDirectSum :
    let s := { built with xre := tabulate 64 fun _ => wrap32 2097152, xim := tabulate 64 fun _ => wrap32 (-2097152) }
    (64#8).toNat = Size.n64.points ∧
    ∀ k, k < Size.n64.points → atMost (2 ^ 21) (entry s.xre k) ∧ atMost (2 ^ 21) (entry s.xim k) := by
  simp only [atMost]; decide +kernel

theorem test_meets_EnginesMatchTheirDirectSums :
    ∀ k, k < Size.n16.points → atMost (2 ^ 21) (wordAt (List.replicate 16 (wrap32 (-2097152))) k) := by
  simp only [atMost]; decide +kernel

theorem test_meets_AnalysisModulationMatchesTheReference :
    ∀ n, n < 64 → atMost (2 ^ 20) (wordAt (List.replicate 64 (wrap32 (-1048576))) n) := by
  simp only [atMost]; decide +kernel

theorem test_meets_SynthesisBlockMatchesTheReference :
    64 ≤ 64 ∧ 0 ≤ 64 ∧
    ∀ k, k < 64 → atMost (2 ^ 26) (entry (impulse 3 67108864) k) ∧
      atMost (2 ^ 26) (entry (impulse 63 (-67108864)) k) := by
  simp only [atMost]; decide +kernel

theorem test_meets_ButterflyFollowsItsDatapath :
    let w : Work := { re := ramp, im := ramp, mark := false }
    0 < 15 ∧ 15 < w.re.length ∧ 15 < w.im.length := by decide +kernel

/-- R153: the first and the last butterflies of the 16-point core, and how many there are (R330). -/
theorem test_core_butterflies :
    (coreButterflies 4).take 2 = [(0, 8, 0), (1, 9, 32)] ∧ (coreButterflies 4).drop 30 = [(12, 13, 0), (14, 15, 0)] ∧
    [4, 5, 6].map (fun b => (coreButterflies b).length) = [32, 80, 192] := by decide +kernel

/-- A fresh context holds the all-zero reference history, in either mode. -/
theorem follows_start (m : Mode) : followsReference (synInit m) Reference.synthesisStart 512 := by
  cases m
  · intro j k _ _
    simp [real, synInit]
  · intro i _
    simp [real, synInit]

theorem test_meets_SynthesisSlotsMatchTheReference :
    (1#4).toNat < built.nch ∧
    built.channels[(0#4).toNat]? = some ⟨anaInit .hq, synInit .hq⟩ ∧
    built.channels[(1#4).toNat]? = some ⟨anaInit .lp, synInit .lp⟩ ∧
    (synInit .hq).valid = true ∧ (synInit .lp).valid = true ∧ (64#8).toNat ≤ 64 ∧
    (∀ i, i < 640 → atMost (2 ^ 30) (entry built.proto i)) ∧
    (∀ k, k < (64#8).toNat → atMost (2 ^ 26) (entry (impulse 63 67108864) k) ∧
      atMost (2 ^ 26) (entry (impulse 0 (-67108864)) k)) ∧
    followsReference (synInit .hq) Reference.synthesisStart 512 ∧
    followsReference (synInit .lp) Reference.synthesisStart 512 ∧
    ∀ i, i < 1280 → |Reference.synthesisStart i| ≤ 2 ^ 27 :=
  ⟨by decide +kernel, rfl, rfl, rfl, rfl, by decide, by simp only [atMost]; decide +kernel,
    by simp only [atMost]; decide +kernel, follows_start .hq, follows_start .lp, fun i _ => by simp⟩

end Sys2Proof.Tests
end

/-! Totality: each shared operation, then each layer above it, answers a next state (R15, R60). Together with the
lemmas `onSize_next`, …, `step_next`, which say what that state can be, no later proof needs to rule out the other
outcomes. -/

namespace Sys2Proof.Machine

theorem onSize_total (i : Instr) (n : BitVec 8) (s : State) (run : Size → State) :
    ∃ t, onSize i n s run = .next t := by
  unfold onSize
  cases sizeOfField n with
  | none => exact ⟨_, rfl⟩
  | some sz => exact ⟨_, rfl⟩

theorem onChannel_total (i : Instr) (c : BitVec 4) (s : State) (run : Channel → State) :
    ∃ t, onChannel i c s run = .next t := by
  unfold onChannel
  cases s.channels[c.toNat]? with
  | none => exact ⟨_, rfl⟩
  | some ch => exact ⟨_, rfl⟩

theorem onSlot_total (i : Instr) (c : BitVec 4) (arg : BitVec 8) (limit : Nat) (valid : Channel → Bool) (s : State)
    (run : Channel → State) : ∃ t, onSlot i c arg limit valid s run = .next t := by
  unfold onSlot
  cases s.channels[c.toNat]? with
  | none => exact ⟨_, rfl⟩
  | some ch => dsimp only; split_ifs <;> exact ⟨_, rfl⟩

/-- Every command completes or takes a fault, whatever its fields and the state (R15): `NOP` has no checks, a transform
checks its size, and a bank command its channel and, for a slot, its argument and context. -/
theorem exec_total (i : Instr) (s : State) : ∃ t, exec i s = .next t := by
  cases i with
  | nop => exact ⟨s, rfl⟩
  | fft n => exact onSize_total ..
  | dct2 n => exact onSize_total ..
  | dct3 n => exact onSize_total ..
  | dct4 n => exact onSize_total ..
  | dst2 n => exact onSize_total ..
  | dst4 n => exact onSize_total ..
  | ainit c m => exact onChannel_total ..
  | sinit c m => exact onChannel_total ..
  | qmfa c kx => exact onSlot_total ..
  | qmfs c nb => exact onSlot_total ..

/-- No encoding is undefined (R98): a word that does not decode takes the decoder's fault. -/
theorem runCommand_total (w : Word) (s : State) : ∃ t, runCommand w s = .next t := by
  unfold runCommand
  cases decode w with
  | ok i => exact exec_total i s
  | error c => exact ⟨_, rfl⟩

/-- No write fails (R60): only a write to `CMD` does more than an update or nothing. -/
theorem busWrite_total (off : Nat) (v : Word) (s : State) : ∃ t, busWrite off v s = .next t := by
  unfold busWrite
  split_ifs with hfault hstatus hclear hcmd hxre hxim
  · exact ⟨s, rfl⟩
  · exact ⟨s.clearOvf, rfl⟩
  · exact ⟨s, rfl⟩
  · exact runCommand_total v s
  · exact ⟨_, rfl⟩
  · exact ⟨_, rfl⟩
  · exact ⟨s, rfl⟩

/-- Whatever the host does at the pins is answered (R14, R60). -/
theorem serve_total (e : HostEvent) (s : State) : ∃ t, serve e s = .next t := by
  cases e with
  | read a => exact ⟨_, rfl⟩
  | write a v => exact busWrite_total a.offset v s
  | reset => exact ⟨_, rfl⟩

/-- Settles O18: an idle step changes nothing, and every event at the pins is served. -/
theorem everyStepAnswersANextState : Obligations.EveryStepAnswersANextState := by
  intro s
  unfold step
  cases s.port with
  | nil => exact ⟨s, rfl⟩
  | cons e rest => exact serve_total e _

end Sys2Proof.Machine

/-! The fault record of a command is the word that was written (R276): a word that decodes is its command's own word. -/

namespace Sys2Proof

/-- A word is put together from its fields, so it is fixed by them. -/
theorem packWord_eq_of_fields {w : Word} {r a n : BitVec 8} {c o : BitVec 4} (hr : fieldReserved w = r)
    (ha : fieldArg w = a) (hn : fieldN w = n) (hc : fieldCh w = c) (ho : fieldOpc w = o) :
    packWord r a n c o = w := by
  subst hr ha hn hc ho
  exact packWord_fields w

theorem decodeZ_ok {w : Word} {i : Instr} (h : decodeZ w = .ok i) :
    fieldCh w = 0#4 ∧ fieldN w = 0#8 ∧ fieldArg w = 0#8 ∧ i = .nop := by
  unfold decodeZ at h
  split_ifs at h with hz
  cases h
  simpa [not_or] using hz

theorem decodeT_ok {w : Word} {mk : BitVec 8 → Instr} {i : Instr} (h : decodeT w mk = .ok i) :
    fieldCh w = 0#4 ∧ fieldArg w = 0#8 ∧ i = mk (fieldN w) := by
  unfold decodeT at h
  split_ifs at h with hz
  cases h
  simpa [not_or] using hz

theorem decodeQ_ok {w : Word} {mk : BitVec 4 → BitVec 8 → Instr} {i : Instr} (h : decodeQ w mk = .ok i) :
    fieldN w = 0#8 ∧ i = mk (fieldCh w) (fieldArg w) := by
  unfold decodeQ at h
  split_ifs at h with hz
  cases h
  simpa using hz

/-- An `ARG` field is its bits 7:1 above its bit 0. -/
theorem extract_append_bit (a : BitVec 8) : a.extractLsb' 1 7 ++ BitVec.ofBool (a.getLsbD 0) = a := by
  apply BitVec.eq_of_getLsbD_eq
  intro j hj
  simp only [BitVec.getLsbD_append, BitVec.getLsbD_extractLsb']
  interval_cases j <;> simp

theorem toBit_ofBit (b : Bool) : (Mode.ofBit b).toBit = b := by cases b <;> rfl

/-- Format I keeps the mode bit alone; the rest of `ARG` is 0 (R95). -/
theorem decodeI_ok {w : Word} {mk : BitVec 4 → Mode → Instr} {i : Instr} (h : decodeI w mk = .ok i) :
    fieldN w = 0#8 ∧ ∃ m : Mode, fieldArg w = 0#7 ++ BitVec.ofBool m.toBit ∧ i = mk (fieldCh w) m := by
  unfold decodeI at h
  split_ifs at h with hz
  cases h
  obtain ⟨hn, ha⟩ : fieldN w = 0#8 ∧ (fieldArg w).extractLsb' 1 7 = 0#7 := by simpa [not_or] using hz
  refine ⟨hn, _, ?_, rfl⟩
  rw [toBit_ofBit, ← ha]
  exact (extract_append_bit _).symm

/-- A word that decodes is the word of its command (R90, R98): the format fixes every bit that the command's fields do
not hold. -/
theorem encode_of_decode {w : Word} {i : Instr} (h : decode w = .ok i) : encode i = w := by
  unfold decode at h
  split_ifs at h with _ hrs
  have hr : fieldReserved w = 0#8 := by simpa using hrs
  have opc {k : Nat} (hk : (fieldOpc w).toNat = k) : fieldOpc w = BitVec.ofNat 4 k := by simp [← hk]
  split at h
  case h_1 ho =>
    obtain ⟨hc, hn, ha, rfl⟩ := decodeZ_ok h
    exact packWord_eq_of_fields hr ha hn hc (opc ho)
  case h_2 ho | h_3 ho | h_4 ho | h_5 ho | h_6 ho | h_7 ho =>
    obtain ⟨hc, ha, rfl⟩ := decodeT_ok h
    exact packWord_eq_of_fields hr ha rfl hc (opc ho)
  case h_8 ho | h_10 ho =>
    obtain ⟨hn, m, ha, rfl⟩ := decodeI_ok h
    exact packWord_eq_of_fields hr ha hn rfl (opc ho)
  case h_9 ho | h_11 ho =>
    obtain ⟨hn, rfl⟩ := decodeQ_ok h
    exact packWord_eq_of_fields hr rfl hn rfl (opc ho)
  case h_12 => cases h

end Sys2Proof

/-! One channel's contexts after a command writes one of them (R23). -/

namespace Sys2Proof.Machine

section

variable {s : State}

/-- Writing `A[c]` leaves the analysis context of every other channel. -/
theorem State.setAna_map_ana (c d : Nat) (a : AnaCtx) (hne : c ≠ d) :
    ((s.setAna c a).channels[d]?).map Channel.ana = (s.channels[d]?).map Channel.ana := by
  simp [hne]

/-- Writing `A[c]` leaves every synthesis context. -/
theorem State.setAna_map_syn (c d : Nat) (a : AnaCtx) :
    ((s.setAna c a).channels[d]?).map Channel.syn = (s.channels[d]?).map Channel.syn := by
  rw [State.setAna_getElem?, Option.map_map]
  congr 1
  funext ch
  simp only [Function.comp_apply]
  split_ifs <;> rfl

/-- Writing `S[c]` leaves the synthesis context of every other channel. -/
theorem State.setSyn_map_syn (c d : Nat) (y : SynCtx) (hne : c ≠ d) :
    ((s.setSyn c y).channels[d]?).map Channel.syn = (s.channels[d]?).map Channel.syn := by
  simp [hne]

/-- Writing `S[c]` leaves every analysis context. -/
theorem State.setSyn_map_ana (c d : Nat) (y : SynCtx) :
    ((s.setSyn c y).channels[d]?).map Channel.ana = (s.channels[d]?).map Channel.ana := by
  rw [State.setSyn_getElem?, Option.map_map]
  congr 1
  funext ch
  simp only [Function.comp_apply]
  split_ifs <;> rfl

theorem State.setAna_map_ana_self {c : Nat} {ch : Channel} (hch : s.channels[c]? = some ch) (a : AnaCtx) :
    ((s.setAna c a).channels[c]?).map Channel.ana = some a := by
  rw [State.setAna_getElem?, hch, Option.map_some, if_pos rfl, Option.map_some]

theorem State.setSyn_map_syn_self {c : Nat} {ch : Channel} (hch : s.channels[c]? = some ch) (y : SynCtx) :
    ((s.setSyn c y).channels[c]?).map Channel.syn = some y := by
  rw [State.setSyn_getElem?, hch, Option.map_some, if_pos rfl, Option.map_some]

end

/-- A rule on every context of a list is kept by a change of one that keeps it. -/
theorem forall_mem_modify {α : Type} {p : α → Prop} {f : α → α} {l : List α} (c : Nat) (hl : ∀ x ∈ l, p x)
    (hf : ∀ x, p x → p (f x)) : ∀ x ∈ l.modify c f, p x := by
  intro x hx
  obtain ⟨d, hd⟩ := List.mem_iff_getElem?.1 hx
  rw [List.getElem?_modify] at hd
  obtain ⟨y, hy, rfl⟩ := Option.map_eq_some_iff.1 hd
  have hp := hl y (List.mem_of_getElem? hy)
  split_ifs
  · exact hf y hp
  · exact hp

/-- A bit of one channel stays set where the change of a channel keeps it set. -/
theorem any_getElem?_modify {p : Channel → Bool} {f : Channel → Channel} {l : List Channel} {c d : Nat}
    (hf : ∀ ch, p ch = true → p (f ch) = true) (h : (l[d]?).any p = true) : ((l.modify c f)[d]?).any p = true := by
  rw [List.getElem?_modify]
  obtain ⟨ch, hch, hp⟩ := (Option.any_eq_true ..).1 h
  rw [hch]
  split_ifs
  · exact hf ch hp
  · exact hp

end Sys2Proof.Machine

/-! What a slot leaves, and what it reads (R203, R233). -/

namespace Sys2Proof.Machine

section

variable {s : State}

/-- A slot command on a constructed context, with its argument in range, runs (R91 steps 6 and 7). -/
theorem onSlot_of_valid {i : Instr} {c : BitVec 4} {arg : BitVec 8} {limit : Nat} {valid : Channel → Bool}
    {run : Channel → State} {ch : Channel} (hch : s.channels[c.toNat]? = some ch) (harg : arg.toNat ≤ limit)
    (hvalid : valid ch = true) : onSlot i c arg limit valid s run = .next (run ch) := by
  simp [onSlot, hch, Nat.not_lt.2 harg, hvalid]

/-- Step 1 of an analysis slot reads 32 samples (R204). -/
theorem ahist_congr {x x' : Vector Word 64} (h : Vector Word 320) (hx : ∀ j, j < 32 → entry x' j = entry x j) :
    ahist h x' = ahist h x := by
  unfold ahist
  congr 1
  funext i
  split_ifs
  · exact hx _ (by omega)
  · rfl

/-- The frame that an analysis slot leaves in the result buffers (R203). -/
theorem entry_analysisSlot (c kx : Nat) (a : AnaCtx) {k : Nat} (hk : k < 32) :
    entry (analysisSlot c kx s a).yre k =
      wordAt (zeroFill kx (analysisFrame s.proto a.mode (ahist a.hist s.xre)).re) k ∧
    entry (analysisSlot c kx s a).yim k =
      wordAt (zeroFill kx (analysisFrame s.proto a.mode (ahist a.hist s.xre)).im) k := by
  simp [analysisSlot, entry_overwrite, hk, Nat.lt_trans hk]

/-- The context that an analysis slot leaves (R204). -/
theorem analysisSlot_map_ana {c : Nat} {ch : Channel} (hch : s.channels[c]? = some ch) (kx : Nat) (a : AnaCtx) :
    ((analysisSlot c kx s a).channels[c]?).map Channel.ana = some { a with hist := ahist a.hist s.xre } :=
  State.setAna_map_ana_self hch _

/-- What `SYN_HQ` or `SYN_LP` gives on a context, by its mode (R233). -/
def synthesisResult (s : State) (nb : Nat) (y : SynCtx) : SynResult :=
  match y.mode with
  | .hq => synHq s.proto y.hist y.vidx s.xre s.xim nb
  | .lp => synLp s.proto y.hist s.xre nb

/-- The region that the next slot computes from: the other one in HQ mode, the same in LP mode (R236, R240). -/
def nextVidx (y : SynCtx) : Fin 2 :=
  match y.mode with
  | .hq => 1 - y.vidx
  | .lp => y.vidx

theorem nextVidx_of_lp {y : SynCtx} (h : y.mode = .lp) : nextVidx y = y.vidx := by
  simp only [nextVidx, h]

/-- Both modes store their result in the same places (R233). -/
theorem synthesisSlot_eq (c nb : Nat) (y : SynCtx) :
    synthesisSlot c nb s y =
      ((s.setSyn c { y with hist := (synthesisResult s nb y).hist, vidx := nextVidx y }).storeRe 64
        (synthesisResult s nb y).out).markOvf (synthesisResult s nb y).mark := by
  unfold synthesisSlot synthesisResult nextVidx
  cases y.mode with
  | hq => rfl
  | lp => rfl

/-- The samples that a synthesis slot leaves in `YRE`. -/
theorem entry_synthesisSlot (c nb : Nat) (y : SynCtx) {k : Nat} (hk : k < 64) :
    entry (synthesisSlot c nb s y).yre k = wordAt (synthesisResult s nb y).out k := by
  simp [synthesisSlot_eq, entry_overwrite, hk]

/-- The context that a synthesis slot leaves. -/
theorem synthesisSlot_map_syn {c : Nat} {ch : Channel} (hch : s.channels[c]? = some ch) (nb : Nat) (y : SynCtx) :
    ((synthesisSlot c nb s y).channels[c]?).map Channel.syn =
      some { y with hist := (synthesisResult s nb y).hist, vidx := nextVidx y } := by
  rw [synthesisSlot_eq]
  exact State.setSyn_map_syn_self hch _

/-- LP synthesis does not read `XIM` (R238). -/
theorem synthesisResult_congr {s' : State} {y : SynCtx} (nb : Nat) (hproto : s'.proto = s.proto)
    (hxre : s'.xre = s.xre) (hxim : y.mode = .hq → s'.xim = s.xim) :
    synthesisResult s' nb y = synthesisResult s nb y := by
  unfold synthesisResult
  rw [hproto, hxre]
  cases hm : y.mode with
  | hq => rw [hxim hm]
  | lp => rfl

end

end Sys2Proof.Machine

/-! All that a command, and then a step, can do to the state, said once. The statements on who may change what are case
splits over these two relations. -/

namespace Sys2Proof.Machine

/-- `CommandEffect s i t`: the command `i` takes `s` to `t`. The result words and the overflow mark are left open; what
the command may touch, and the contexts it needs, are not (R21 to R23, R91, R276). -/
inductive CommandEffect (s : State) : Instr → State → Prop
  | nop : CommandEffect s .nop s
  | faulted (i : Instr) (k : Cause) : CommandEffect s i (s.raiseFault k (encode i))
  | transformed (n : BitVec 8) (i : Instr) (hi : i ∈ Stating.transforms n) (yre yim : Vector Word 64) (mark : Bool) :
      CommandEffect s i { s with yre := yre, yim := yim, ovf := s.ovf || mark }
  | anaConstructed (c : BitVec 4) (m : Mode) : CommandEffect s (.ainit c m) (s.setAna c.toNat (anaInit m))
  | synConstructed (c : BitVec 4) (m : Mode) : CommandEffect s (.sinit c m) (s.setSyn c.toNat (synInit m))
  | analysed (c : BitVec 4) (kx : BitVec 8) (ch : Channel) (hch : s.channels[c.toNat]? = some ch)
      (hvalid : ch.ana.valid = true) (h : Vector Word 320) (yre yim : Vector Word 64) (mark : Bool) :
      CommandEffect s (.qmfa c kx)
        { s.setAna c.toNat { ch.ana with hist := h } with yre := yre, yim := yim, ovf := s.ovf || mark }
  | synthesised (c : BitVec 4) (nb : BitVec 8) (ch : Channel) (hch : s.channels[c.toNat]? = some ch)
      (hvalid : ch.syn.valid = true) (h : Vector Word 1280) (v : Fin 2) (hlp : ch.syn.mode = .lp → v = ch.syn.vidx)
      (yre : Vector Word 64) (mark : Bool) :
      CommandEffect s (.qmfs c nb)
        { s.setSyn c.toNat { ch.syn with hist := h, vidx := v } with yre := yre, ovf := s.ovf || mark }

/-- The five engine commands (R176). -/
theorem onSize_runEngine_effect {i : Instr} {n : BitVec 8} {s t : State}
    {engine : Size → List Word → Marked (List Word)} (hi : i ∈ Stating.transforms n)
    (h : onSize i n s (runEngine engine s) = .next t) : CommandEffect s i t := by
  obtain ⟨sz, -, rfl⟩ | ⟨-, rfl⟩ := onSize_next h
  · exact .transformed n i hi _ _ _
  · exact .faulted i _

/-- A slot command runs on its constructed context or takes one of its three faults (R91 steps 6 and 7). -/
theorem execQmfa_effect {c : BitVec 4} {kx : BitVec 8} {s t : State} (h : execQmfa c kx s = .next t) :
    CommandEffect s (.qmfa c kx) t := by
  obtain ⟨ch, hch, -, hvalid, rfl⟩ | ⟨-, rfl⟩ | ⟨-, -, rfl⟩ | ⟨-, -, -, -, rfl⟩ := onSlot_next h
  · exact .analysed c kx ch hch hvalid _ _ _ _
  all_goals exact .faulted _ _

/-- In HQ mode `vidx` moves to the other region (R236); in LP mode it stays (R240). -/
theorem execQmfs_effect {c : BitVec 4} {nb : BitVec 8} {s t : State} (h : execQmfs c nb s = .next t) :
    CommandEffect s (.qmfs c nb) t := by
  obtain ⟨ch, hch, -, hvalid, rfl⟩ | ⟨-, rfl⟩ | ⟨-, -, rfl⟩ | ⟨-, -, -, -, rfl⟩ := onSlot_next h
  · rw [synthesisSlot_eq]
    exact .synthesised c nb ch hch hvalid _ _ nextVidx_of_lp _ _
  all_goals exact .faulted _ _

/-- Every command that answers a next state has one of the effects. -/
theorem exec_effect {i : Instr} {s t : State} (h : exec i s = .next t) : CommandEffect s i t := by
  cases i with
  | nop => cases h; exact .nop
  | fft n =>
    obtain ⟨sz, -, rfl⟩ | ⟨-, rfl⟩ := onSize_next h
    · exact .transformed n _ (by simp [Stating.transforms]) _ _ _
    · exact .faulted _ _
  | dct2 n => exact onSize_runEngine_effect (by simp [Stating.transforms]) h
  | dct3 n => exact onSize_runEngine_effect (by simp [Stating.transforms]) h
  | dct4 n => exact onSize_runEngine_effect (by simp [Stating.transforms]) h
  | dst2 n => exact onSize_runEngine_effect (by simp [Stating.transforms]) h
  | dst4 n => exact onSize_runEngine_effect (by simp [Stating.transforms]) h
  | ainit c m =>
    obtain ⟨ch, -, rfl⟩ | ⟨-, rfl⟩ := onChannel_next h
    · exact .anaConstructed c m
    · exact .faulted _ _
  | sinit c m =>
    obtain ⟨ch, -, rfl⟩ | ⟨-, rfl⟩ := onChannel_next h
    · exact .synConstructed c m
    · exact .faulted _ _
  | qmfa c kx => exact execQmfa_effect h
  | qmfs c nb => exact execQmfs_effect h

/-- A word address whose offset is that of `CMD` is the address of `commandWrite`. -/
theorem eq_cmdAddr_of_offset {a : WordAddr} (h : a.offset = Config.offCmd) : a = cmdAddr := by
  apply BitVec.eq_of_toNat_eq
  simp only [WordAddr.offset, Config.offCmd] at h
  have hcmd : cmdAddr.toNat = 3 := rfl
  omega

/-- `StepEffect s t`: one step takes `s` to `t` (R14). Each constructor but `idle` names the event that it serves, and
`{ s with port := rest }` is the state without that event. -/
inductive StepEffect (s : State) : State → Prop
  | idle (hp : s.port = []) : StepEffect s s
  | answered (a : WordAddr) (rest : List HostEvent) (hp : s.port = .read a :: rest) :
      StepEffect s (({ s with port := rest } : State).reply (busRead { s with port := rest } a.offset))
  | ignored (a : WordAddr) (v : Word) (rest : List HostEvent) (hp : s.port = .write a v :: rest) :
      StepEffect s { s with port := rest }
  | ovfCleared (a : WordAddr) (v : Word) (rest : List HostEvent) (hp : s.port = .write a v :: rest)
      (hrun : s.fault = false) (ha : a.offset = Config.offStatus) (hv : v.getLsbD 1 = true) :
      StepEffect s ({ s with port := rest } : State).clearOvf
  | operandWritten (a : WordAddr) (v : Word) (rest : List HostEvent) (hp : s.port = .write a v :: rest)
      (hrun : s.fault = false) (xre xim : Vector Word 64) : StepEffect s { s with port := rest, xre := xre, xim := xim }
  | undecoded (w : Word) (rest : List HostEvent) (hp : s.port = commandWrite w :: rest) (hrun : s.fault = false)
      (k : Cause) (hd : decode w = .error k) : StepEffect s (({ s with port := rest } : State).raiseFault k w)
  | executed (i : Instr) (rest : List HostEvent) (hp : s.port = commandWrite (encode i) :: rest)
      (hrun : s.fault = false) (t : State) (ht : CommandEffect { s with port := rest } i t) : StepEffect s t
  | wasReset (rest : List HostEvent) (hp : s.port = .reset :: rest) :
      StepEffect s ({ s with port := rest } : State).afterReset

/-- What the write of a word to `CMD` does while `FAULT = 0` (R34, R91). -/
theorem runCommand_effect {s t : State} {w : Word} {rest : List HostEvent} (hp : s.port = commandWrite w :: rest)
    (hrun : s.fault = false) (h : runCommand w { s with port := rest } = .next t) : StepEffect s t := by
  obtain ⟨i, hd, he⟩ | ⟨k, hd, rfl⟩ := runCommand_next h
  · rw [← encode_of_decode hd] at hp
    exact .executed i rest hp hrun t (exec_effect he)
  · exact .undecoded w rest hp hrun k hd

/-- Every step has one of the effects. -/
theorem step_effect {s t : State} (h : step s = .next t) : StepEffect s t := by
  obtain ⟨hp, rfl⟩ | ⟨a, rest, hp, rfl⟩ | ⟨a, v, rest, hp, hw⟩ | ⟨rest, hp, rfl⟩ := step_next h
  · exact .idle hp
  · exact .answered a rest hp
  · obtain rfl | ⟨hrun, ha, hv, rfl⟩ | ⟨hrun, ha, hc⟩ | ⟨hrun, j, -, rfl | rfl⟩ := busWrite_next hw
    · exact .ignored a v rest hp
    · exact .ovfCleared a v rest hp hrun ha hv
    · rw [eq_cmdAddr_of_offset ha] at hp
      exact runCommand_effect hp hrun hc
    · exact .operandWritten a v rest hp hrun (setEntry s.xre j v) s.xim
    · exact .operandWritten a v rest hp hrun s.xre (setEntry s.xim j v)
  · exact .wasReset rest hp

end Sys2Proof.Machine

/-! What every command and every step keeps (R21, R27, R28, R53, R310). -/

namespace Sys2Proof.Machine

open Sys2Proof.Stating

section

variable {s t : State}

/-- The invariants speak of the fault record and the contexts alone. -/
theorem State.Inv.of_same (hs : s.Inv) (hfault : s.SameFault t) (hch : t.channels = s.channels) : t.Inv := by
  obtain ⟨hf, he, hw⟩ := hfault
  simpa only [State.Inv, State.nch, hf, he, hw, hch] using hs

/-- The codes of R271 are 1 to 6. -/
theorem causeCode_range (k : Cause) : 1 ≤ (causeCode k).toNat ∧ (causeCode k).toNat ≤ 6 := by
  cases k <;> decide

/-- Fault entry sets `FAULT` together with a cause code. -/
theorem State.Inv.raiseFault (hs : s.Inv) (k : Cause) (w : Word) : (s.raiseFault k w).Inv := by
  obtain ⟨hnch, -, -, hch⟩ := hs
  exact ⟨hnch, by simp, fun _ => causeCode_range k, hch⟩

/-- A valid analysis context may have either mode. -/
theorem State.Inv.setAna (hs : s.Inv) (c : Nat) {a : AnaCtx} (ha : a.valid = true) : (s.setAna c a).Inv := by
  obtain ⟨hnch, hclear, hset, hch⟩ := hs
  refine ⟨by simpa using hnch, hclear, hset, forall_mem_modify c hch fun ch hcons => ?_⟩
  obtain ⟨-, hsyn⟩ := hcons
  exact ⟨by simp [ha], hsyn⟩

/-- A valid synthesis context may have either mode; in LP mode its `vidx` must be 0. -/
theorem State.Inv.setSyn (hs : s.Inv) (c : Nat) {y : SynCtx} (hvalid : y.valid = true)
    (hlp : y.mode = .lp → y.vidx = 0) : (s.setSyn c y).Inv := by
  obtain ⟨hnch, hclear, hset, hch⟩ := hs
  refine ⟨by simpa using hnch, hclear, hset, forall_mem_modify c hch fun ch hcons => ?_⟩
  obtain ⟨hana, -⟩ := hcons
  exact ⟨hana, by simp [hvalid], hlp⟩

/-- After reset nothing is valid and no fault is recorded (R52). -/
theorem State.Inv.afterReset (hs : s.Inv) : s.afterReset.Inv := by
  obtain ⟨hnch, -⟩ := hs
  refine ⟨by simpa using hnch, by simp, by simp, fun ch hch => ?_⟩
  obtain rfl := List.eq_of_mem_replicate hch
  exact ⟨fun _ => rfl, fun _ => ⟨rfl, rfl⟩, fun _ => rfl⟩

/-- A context is constructed with the bits that agree, and a slot keeps them: it moves `vidx` in HQ mode only. -/
theorem CommandEffect.keeps_inv {i : Instr} (h : CommandEffect s i t) (hs : s.Inv) : t.Inv := by
  cases h with
  | nop => exact hs
  | faulted => exact hs.raiseFault _ _
  | transformed => exact hs.of_same ⟨rfl, rfl, rfl⟩ rfl
  | anaConstructed c m => exact hs.setAna c.toNat rfl
  | synConstructed c m => exact hs.setSyn c.toNat rfl fun _ => rfl
  | analysed c kx ch hch hvalid h =>
    exact (hs.setAna c.toNat (a := { ch.ana with hist := h }) hvalid).of_same ⟨rfl, rfl, rfl⟩ rfl
  | synthesised c nb ch hch hvalid h v hlp =>
    have ⟨_, _, _, hcons⟩ := hs
    have ⟨_, _, hzero⟩ := hcons ch (List.mem_of_getElem? hch)
    have hvidx : ch.syn.mode = .lp → v = 0 := fun hm => (hlp hm).trans (hzero hm)
    exact (hs.setSyn c.toNat (y := { ch.syn with hist := h, vidx := v }) hvalid hvidx).of_same ⟨rfl, rfl, rfl⟩ rfl

/-- No command changes the number of contexts (R8). -/
theorem CommandEffect.nch_eq {i : Instr} (h : CommandEffect s i t) : t.nch = s.nch := by
  cases h with
  | nop | faulted | transformed => rfl
  | anaConstructed | analysed => exact s.nch_setAna _ _
  | synConstructed | synthesised => exact s.nch_setSyn _ _

/-- `A[c]` changes by `AINIT c` and `QMFA c` only. -/
theorem CommandEffect.ana_eq {i : Instr} (h : CommandEffect s i t) (c : BitVec 4) (hinit : ∀ m, i ≠ .ainit c m)
    (hslot : ∀ kx, i ≠ .qmfa c kx) :
    (t.channels[c.toNat]?).map Channel.ana = (s.channels[c.toNat]?).map Channel.ana := by
  cases h with
  | nop | faulted | transformed => rfl
  | synConstructed | synthesised => exact State.setSyn_map_ana _ _ _
  | anaConstructed d m =>
    exact State.setAna_map_ana _ _ _ fun hd => hinit m (by rw [BitVec.eq_of_toNat_eq hd])
  | analysed d kx =>
    exact State.setAna_map_ana _ _ _ fun hd => hslot kx (by rw [BitVec.eq_of_toNat_eq hd])

/-- `S[c]` changes by `SINIT c` and `QMFS c` only. -/
theorem CommandEffect.syn_eq {i : Instr} (h : CommandEffect s i t) (c : BitVec 4) (hinit : ∀ m, i ≠ .sinit c m)
    (hslot : ∀ nb, i ≠ .qmfs c nb) :
    (t.channels[c.toNat]?).map Channel.syn = (s.channels[c.toNat]?).map Channel.syn := by
  cases h with
  | nop | faulted | transformed => rfl
  | anaConstructed | analysed => exact State.setAna_map_syn _ _ _
  | synConstructed d m =>
    exact State.setSyn_map_syn _ _ _ fun hd => hinit m (by rw [BitVec.eq_of_toNat_eq hd])
  | synthesised d nb =>
    exact State.setSyn_map_syn _ _ _ fun hd => hslot nb (by rw [BitVec.eq_of_toNat_eq hd])

/-- A command takes its fault entry, or leaves `FAULT` and the record as they were (R27, R276). -/
theorem CommandEffect.raiseFault_or_sameFault {i : Instr} (h : CommandEffect s i t) :
    (∃ k, t = s.raiseFault k (encode i)) ∨ s.SameFault t := by
  cases h with
  | faulted i k => exact .inl ⟨k, rfl⟩
  | nop | transformed | anaConstructed | synConstructed | analysed | synthesised => exact .inr ⟨rfl, rfl, rfl⟩

/-- A construction sets its own valid bit and a slot finds it set, so no command clears one (R310). -/
theorem CommandEffect.keeps_valid {i : Instr} (h : CommandEffect s i t) (d : Nat) :
    (anaValid s d = true → anaValid t d = true) ∧ (synValid s d = true → synValid t d = true) := by
  cases h with
  | nop | faulted | transformed => exact ⟨id, id⟩
  | anaConstructed => exact ⟨any_getElem?_modify fun _ _ => rfl, any_getElem?_modify fun _ h => h⟩
  | synConstructed => exact ⟨any_getElem?_modify fun _ h => h, any_getElem?_modify fun _ _ => rfl⟩
  | analysed _ _ _ _ hvalid => exact ⟨any_getElem?_modify fun _ _ => hvalid, any_getElem?_modify fun _ h => h⟩
  | synthesised _ _ _ _ hvalid => exact ⟨any_getElem?_modify fun _ h => h, any_getElem?_modify fun _ _ => hvalid⟩

/-- A step that sets `FAULT` is the fault entry of the word written to `CMD`. -/
theorem StepEffect.raiseFault_of_fault_set (h : StepEffect s t) (hs : s.fault = false) (ht : t.fault = true) :
    ∃ w rest k, s.port = commandWrite w :: rest ∧ t = ({ s with port := rest } : State).raiseFault k w := by
  cases h with
  | idle | answered | ignored | ovfCleared | operandWritten => exact absurd (hs.symm.trans ht) (by decide)
  | undecoded w rest hp _ k => exact ⟨w, rest, k, hp, rfl⟩
  | executed i rest hp _ _ heff =>
    obtain ⟨k, rfl⟩ | ⟨hf, -⟩ := heff.raiseFault_or_sameFault
    · exact ⟨encode i, rest, k, hp, rfl⟩
    · exact absurd (hs.symm.trans (hf.symm.trans ht)) (by decide)
  | wasReset => exact absurd ht (by simp)

/-- While `FAULT = 1` no command runs and no write is taken (R67), so the record stays until a reset. -/
theorem StepEffect.sameFault_of_fault (h : StepEffect s t) (hreset : s.port.head? ≠ some .reset)
    (hs : s.fault = true) : s.SameFault t := by
  cases h with
  | idle | answered | ignored | ovfCleared | operandWritten => exact ⟨rfl, rfl, rfl⟩
  | undecoded _ _ _ hrun | executed _ _ _ hrun => simp [hs] at hrun
  | wasReset rest hp => simp [hp] at hreset

/-- Of the eight effects only a reset makes a context invalid (R310). -/
theorem StepEffect.keeps_valid (h : StepEffect s t) (hreset : s.port.head? ≠ some .reset) (d : Nat) :
    (anaValid s d = true → anaValid t d = true) ∧ (synValid s d = true → synValid t d = true) := by
  cases h with
  | idle | answered | ignored | ovfCleared | operandWritten | undecoded => exact ⟨id, id⟩
  | executed i rest hp hrun t heff => exact heff.keeps_valid d
  | wasReset rest hp => simp [hp] at hreset

/-- A command adds its mark to `OVF` and never clears it (R28, R124). -/
theorem CommandEffect.keeps_ovf {i : Instr} (h : CommandEffect s i t) (hs : s.ovf = true) : t.ovf = true := by
  cases h with
  | nop | faulted | anaConstructed | synConstructed => exact hs
  | transformed | analysed | synthesised => exact Bool.or_eq_true_iff.2 (.inl hs)

end

end Sys2Proof.Machine

/-! The registers that read the flags and the contexts. -/

namespace Sys2Proof.Machine

open Sys2Proof.Stating

/-- The register at offset 0x008 is `STATUS` (R63). -/
theorem busRead_status (s : State) : busRead s 0x008 = s.statusWord := rfl

/-- `STATUS` bit by bit (R33). -/
theorem State.getLsbD_statusWord (s : State) (j : Nat) :
    s.statusWord.getLsbD j =
      if j = 0 then s.fault else if j = 1 then s.ovf else if 4 ≤ j then s.errcode.getLsbD (j - 4) else false := by
  simp only [State.statusWord, BitVec.getLsbD_or, BitVec.getLsbD_shiftLeft, BitVec.getLsbD_setWidth,
    BitVec.getLsbD_ofBool]
  by_cases hj : j < 8
  · interval_cases j <;> simp
  · have hcode : s.errcode.getLsbD (j - 4) = false := BitVec.getLsbD_of_ge _ _ (by omega)
    simp [hcode, show j ≠ 0 by omega, show j - 1 ≠ 0 by omega, show j ≠ 1 by omega]

/-- Bit `c` of the sum over the contexts is the bit of context `c`, and 0 where there is none (R63). -/
theorem testBit_contextBits (b : Channel → Bool) (l : List Channel) (c : Nat) :
    (contextBits b l).testBit c = (l[c]?).any b := by
  induction l generalizing c with
  | nil => simp [contextBits]
  | cons ch rest ih =>
    have hb := (b ch).toNat_lt
    cases c with
    | zero => cases hb : b ch <;> simp [contextBits, hb]
    | succ c =>
      have hhalf : contextBits b (ch :: rest) / 2 = contextBits b rest := by
        simp only [contextBits]
        omega
      rw [Nat.testBit_succ, hhalf, ih, List.getElem?_cons_succ]

/-- The sum has one bit for each context. -/
theorem contextBits_lt (b : Channel → Bool) (l : List Channel) : contextBits b l < 2 ^ l.length := by
  induction l with
  | nil => simp [contextBits]
  | cons ch rest ih =>
    have hb := (b ch).toNat_lt
    simp only [contextBits, List.length_cons, Nat.pow_succ]
    omega

/-- A register of two halves, one bit to each context (R36, R37). -/
theorem getLsbD_halves (p q : Channel → Bool) (l : List Channel) (hl : l.length ≤ 16) (j : Nat) :
    (BitVec.ofNat 32 (contextBits p l + 2 ^ 16 * contextBits q l)).getLsbD j =
      if j < 16 then (l[j]?).any p else (l[j - 16]?).any q := by
  have hp : contextBits p l < 2 ^ 16 := (contextBits_lt p l).trans_le (Nat.pow_le_pow_right (by decide) hl)
  rw [BitVec.getLsbD_ofNat, Nat.add_comm, Nat.testBit_two_pow_mul_add _ hp]
  simp only [testBit_contextBits]
  by_cases hj : j < 32
  · simp [hj]
  · have hnone : l[j - 16]? = none := List.getElem?_eq_none (by omega)
    simp [hj, hnone, show ¬ j < 16 by omega]

/-- A register of one half (R38). -/
theorem getLsbD_half (p : Channel → Bool) (l : List Channel) (hl : l.length ≤ 16) (j : Nat) :
    (BitVec.ofNat 32 (contextBits p l)).getLsbD j = (l[j]?).any p := by
  rw [BitVec.getLsbD_ofNat, testBit_contextBits]
  by_cases hj : j < 32
  · simp [hj]
  · have hnone : l[j]? = none := List.getElem?_eq_none (by omega)
    simp [hnone]

/-- `CTXVALID` bit by bit (R36). -/
theorem getLsbD_busRead_ctxValid {s : State} (hn : s.nch ≤ 16) (j : Nat) :
    (busRead s 0x014).getLsbD j = if j < 16 then anaValid s j else synValid s (j - 16) :=
  getLsbD_halves _ _ _ hn j

/-- `CTXMODE` bit by bit (R37). -/
theorem getLsbD_busRead_ctxMode {s : State} (hn : s.nch ≤ 16) (j : Nat) :
    (busRead s 0x018).getLsbD j = if j < 16 then anaMode s j else synMode s (j - 16) :=
  getLsbD_halves _ _ _ hn j

/-- `VIDX` bit by bit (R38). -/
theorem getLsbD_busRead_vidx {s : State} (hn : s.nch ≤ 16) (j : Nat) : (busRead s 0x01C).getLsbD j = synVidx s j :=
  getLsbD_half _ _ hn j

end Sys2Proof.Machine

/-! The statements on the state of the block (spec/10_state.md). -/

namespace Sys2Proof.Machine

open Sys2Proof.Stating

/-- Settles O17: each effect of a step keeps the invariants, by the rule of its update. -/
theorem stepKeepsTheInvariants : Obligations.StepKeepsTheInvariants := by
  intro s t hs h
  cases step_effect h with
  | idle => exact hs
  | answered | ignored | ovfCleared | operandWritten => exact hs.of_same ⟨rfl, rfl, rfl⟩ rfl
  | undecoded w rest hp hrun k => exact (hs.of_same ⟨rfl, rfl, rfl⟩ rfl).raiseFault k w
  | executed i rest hp hrun t ht => exact ht.keeps_inv (hs.of_same ⟨rfl, rfl, rfl⟩ rfl)
  | wasReset rest hp => exact (hs.of_same ⟨rfl, rfl, rfl⟩ rfl).afterReset

/-- Settles O14, by the three registers bit by bit. -/
theorem contextRegistersReadOneBitPerContext : Obligations.ContextRegistersReadOneBitPerContext := by
  intro s hn
  have hnone {j : Nat} (hj : ¬ j < s.nch) : s.channels[j]? = none := List.getElem?_eq_none (Nat.le_of_not_lt hj)
  refine ⟨fun c hc => ?_, fun b hlow hhigh => ?_, fun b hb => ?_⟩
  · have hc16 : c < 16 := hc.trans_le hn
    simp [getLsbD_busRead_ctxValid hn, getLsbD_busRead_ctxMode hn, getLsbD_busRead_vidx hn, hc16]
  · simp only [getLsbD_busRead_ctxValid hn, getLsbD_busRead_ctxMode hn]
    split_ifs with hb
    · simp [anaValid, anaMode, hnone hlow]
    · have hsyn := hnone (j := b - 16) (by omega)
      simp [synValid, synMode, hsyn]
  · simp [getLsbD_busRead_vidx hn, synVidx, hnone hb]

/-- Settles O37: no effect of a command touches these fields, and `NCH` is kept with the number of contexts. -/
theorem noCommandWritesTheOperands : Obligations.NoCommandWritesTheOperands := by
  intro i s t h
  have heff := exec_effect h
  have hnch := heff.nch_eq
  cases heff <;> exact ⟨⟨rfl, rfl⟩, ⟨hnch, rfl⟩, rfl, rfl⟩

/-- Settles O38, by the effects of a command. -/
theorem contextsChangeByTheirOwnCommandsOnly : Obligations.ContextsChangeByTheirOwnCommandsOnly :=
  fun _ _ _ c h => ⟨(exec_effect h).ana_eq c, (exec_effect h).syn_eq c⟩

/-- Settles O39, by the effects of a step. -/
theorem onlyResetClearsFaultAndValid : Obligations.OnlyResetClearsFaultAndValid := by
  refine ⟨rfl, fun s t h => ?_⟩
  have heff := step_effect h
  exact ⟨heff.raiseFault_of_fault_set, fun hreset => ⟨heff.sameFault_of_fault hreset,
    fun d => (heff.keeps_valid hreset d).1, fun d => (heff.keeps_valid hreset d).2⟩⟩

/-- Settles O40: of the effects of a step only two can clear `OVF`. -/
theorem overflowFlagIsSticky : Obligations.OverflowFlagIsSticky := by
  intro s t h hs ht
  cases step_effect h with
  | idle | answered | ignored | operandWritten | undecoded => exact absurd (hs.symm.trans ht) (by decide)
  | ovfCleared a v rest hp hrun ha hv => exact .inr ⟨hrun, a, v, rest, hp, ha, hv⟩
  | executed i rest hp hrun t heff => exact absurd ((heff.keeps_ovf hs).symm.trans ht) (by decide)
  | wasReset rest hp => exact .inl (by simp [hp])

/-- Settles O41: the frame, the samples and the new context are functions of what the two states agree on. -/
theorem slotDependsOnItsOwnContextOnly : Obligations.SlotDependsOnItsOwnContextOnly := by
  refine ⟨fun s s' c kx ch ch' hch hch' hana hproto hxre hvalid hkx => ?_,
    fun s s' c nb ch ch' hch hch' hsyn hproto hxre hxim hvalid hnb => ?_⟩
  · refine ⟨_, _, onSlot_of_valid hch hkx hvalid, onSlot_of_valid hch' hkx (hana ▸ hvalid), fun k hk => ?_, ?_⟩
    · simp only [entry_analysisSlot _ _ _ hk, hana, hproto, ahist_congr _ hxre, and_self]
    · rw [analysisSlot_map_ana hch, analysisSlot_map_ana hch', hana, ahist_congr _ hxre]
  · have hresult := synthesisResult_congr (y := ch.syn) nb.toNat hproto hxre hxim
    refine ⟨_, _, onSlot_of_valid hch hnb hvalid, onSlot_of_valid hch' hnb (hsyn ▸ hvalid), fun k hk => ?_, ?_⟩
    · rw [entry_synthesisSlot _ _ _ hk, entry_synthesisSlot _ _ _ hk, hsyn, hresult]
    · rw [synthesisSlot_map_syn hch, synthesisSlot_map_syn hch', hsyn, hresult]

/-- Settles O13, by `STATUS` bit by bit. -/
theorem statusReadsItsFields : Obligations.StatusReadsItsFields := by
  intro s
  have hcode : (busRead s 0x008).extractLsb' 4 4 = s.errcode := by
    apply BitVec.eq_of_getLsbD_eq
    intro j hj
    rw [busRead_status, BitVec.getLsbD_extractLsb', State.getLsbD_statusWord]
    simp [hj, show 4 + j ≠ 1 by omega]
  refine ⟨?_, ?_, ?_, hcode, ?_, fun hs hclear => ?_, fun hs hset => ?_⟩
  · rw [busRead_status, State.getLsbD_statusWord, if_pos rfl]
  · rw [busRead_status, State.getLsbD_statusWord, if_neg one_ne_zero, if_pos rfl]
  · apply BitVec.eq_of_getLsbD_eq
    intro j hj
    rw [busRead_status, BitVec.getLsbD_extractLsb', State.getLsbD_statusWord]
    interval_cases j <;> simp
  · apply BitVec.eq_of_getLsbD_eq
    intro j hj
    rw [busRead_status, BitVec.getLsbD_extractLsb', State.getLsbD_statusWord]
    have hbeyond : s.errcode.getLsbD (8 + j - 4) = false := BitVec.getLsbD_of_ge _ _ (by omega)
    simp [hbeyond, show 8 + j ≠ 1 by omega]
  · obtain ⟨-, hrecord, -⟩ := hs
    rw [hcode]
    exact (hrecord hclear).1
  · obtain ⟨-, -, hrange, -⟩ := hs
    rw [hcode]
    exact hrange hset

end Sys2Proof.Machine

/-! The register window: what a read of each offset returns (R63), and what a write to each offset does (R64 to R67). -/

namespace Sys2Proof.Machine

open Sys2Proof.Stating

section

variable (s : State) {off : Nat}

/-- Past the eight registers, an offset reads the entry of the buffer it lies in, or 0 outside the buffers (R63). -/
theorem busRead_of_not_register (h : 0x020 ≤ off) :
    busRead s off =
      if 0x400 ≤ off ∧ off < 0x500 then entry s.xre ((off - 0x400) / 4)
      else if 0x500 ≤ off ∧ off < 0x600 then entry s.xim ((off - 0x500) / 4)
      else if 0x600 ≤ off ∧ off < 0x700 then entry s.yre ((off - 0x600) / 4)
      else if 0x700 ≤ off ∧ off < 0x800 then entry s.yim ((off - 0x700) / 4)
      else 0#32 := by
  have hreg (r : Nat) (hr : r < 0x020) : off ≠ r := by omega
  unfold busRead
  iterate 8 rw [if_neg (hreg _ (by decide))]
  rfl

theorem busRead_xre_range (hlo : 0x400 ≤ off) (hhi : off < 0x500) :
    busRead s off = entry s.xre ((off - 0x400) / 4) := by
  rw [busRead_of_not_register s (by omega), if_pos ⟨hlo, hhi⟩]

theorem busRead_xim_range (hlo : 0x500 ≤ off) (hhi : off < 0x600) :
    busRead s off = entry s.xim ((off - 0x500) / 4) := by
  rw [busRead_of_not_register s (by omega), if_neg (by omega), if_pos ⟨hlo, hhi⟩]

theorem busRead_yre_range (hlo : 0x600 ≤ off) (hhi : off < 0x700) :
    busRead s off = entry s.yre ((off - 0x600) / 4) := by
  rw [busRead_of_not_register s (by omega), if_neg (by omega), if_neg (by omega), if_pos ⟨hlo, hhi⟩]

theorem busRead_yim_range (hlo : 0x700 ≤ off) (hhi : off < 0x800) :
    busRead s off = entry s.yim ((off - 0x700) / 4) := by
  rw [busRead_of_not_register s (by omega), if_neg (by omega), if_neg (by omega), if_neg (by omega), if_pos ⟨hlo, hhi⟩]

/-- A reserved offset lies neither among the registers nor in a buffer (R65). -/
theorem busRead_reserved (h : reservedOffset off) : busRead s off = 0#32 := by
  unfold reservedOffset at h
  rw [busRead_of_not_register s (by omega), if_neg (by omega), if_neg (by omega), if_neg (by omega), if_neg (by omega)]

/-- The read of entry `i` of each of the four buffers, at the offsets of R62. -/
theorem busRead_buffers (i : Fin 64) :
    busRead s (0x400 + 4 * i.val) = s.xre[i] ∧ busRead s (0x500 + 4 * i.val) = s.xim[i] ∧
    busRead s (0x600 + 4 * i.val) = s.yre[i] ∧ busRead s (0x700 + 4 * i.val) = s.yim[i] := by
  have hi := i.isLt
  have hword (base : Nat) : (base + 4 * i.val - base) / 4 = i.val := by omega
  rw [busRead_xre_range s (by omega) (by omega), busRead_xim_range s (by omega) (by omega),
    busRead_yre_range s (by omega) (by omega), busRead_yim_range s (by omega) (by omega)]
  simp only [hword, entry_eq_getElem _ _ hi, Fin.getElem_fin, and_self]

/-- Only `STATUS` shows the two flags and the code of the fault (R33, R63). -/
theorem busRead_with_flags (f o : Bool) (e : BitVec 4) (h : off ≠ 0x008) :
    busRead { s with fault := f, ovf := o, errcode := e } off = busRead s off := by
  have hstatus : ¬ off = Config.offStatus := h
  simp only [busRead, if_neg hstatus]
  rfl

/-- Only the offsets of `XRE` show that buffer. -/
theorem busRead_with_xre (x : Vector Word 64) (h : ¬ (0x400 ≤ off ∧ off < 0x500)) :
    busRead { s with xre := x } off = busRead s off := by
  have hbuf : ¬ (Config.offXre ≤ off ∧ off < Config.offXre + 0x100) := h
  simp only [busRead, if_neg hbuf]
  rfl

/-- Only the offsets of `XIM` show that buffer. -/
theorem busRead_with_xim (x : Vector Word 64) (h : ¬ (0x500 ≤ off ∧ off < 0x600)) :
    busRead { s with xim := x } off = busRead s off := by
  have hbuf : ¬ (Config.offXim ≤ off ∧ off < Config.offXim + 0x100) := h
  simp only [busRead, if_neg hbuf]
  rfl

/-- A stored word of `XRE` is read at its own offset, and every other offset reads as before (R63, R64). -/
theorem busRead_setXre {i : Nat} (hi : i < 64) (v : Word) (off : Nat) :
    busRead (s.setXre i v) off = if bufferOffsets (0x400 + 4 * i) 1 off then v else busRead s off := by
  by_cases h : 0x400 ≤ off ∧ off < 0x500
  · obtain ⟨hlo, hhi⟩ := h
    rw [busRead_xre_range _ hlo hhi, busRead_xre_range _ hlo hhi, State.setXre_xre, entry_setEntry _ _ _ _ (by omega)]
    exact if_congr (by omega) rfl rfl
  · rw [if_neg (by omega)]
    exact busRead_with_xre s _ h

/-- A stored word of `XIM` is read at its own offset, and every other offset reads as before (R63, R64). -/
theorem busRead_setXim {i : Nat} (hi : i < 64) (v : Word) (off : Nat) :
    busRead (s.setXim i v) off = if bufferOffsets (0x500 + 4 * i) 1 off then v else busRead s off := by
  by_cases h : 0x500 ≤ off ∧ off < 0x600
  · obtain ⟨hlo, hhi⟩ := h
    rw [busRead_xim_range _ hlo hhi, busRead_xim_range _ hlo hhi, State.setXim_xim, entry_setEntry _ _ _ _ (by omega)]
    exact if_congr (by omega) rfl rfl
  · rw [if_neg (by omega)]
    exact busRead_with_xim s _ h

/-- Reading an element after one entry was replaced. -/
theorem getElem_setEntry {n : Nat} (x : Vector Word n) (i : Nat) (v : Word) {j : Nat} (hj : j < n) :
    (setEntry x i v)[j] = if j = i then v else x[j] := by
  rw [← entry_eq_getElem _ _ hj, entry_setEntry _ _ _ _ hj, entry_eq_getElem _ _ hj]

end

/-! The registers as numbers. -/

/-- `STATUS` as a number (R33): its 64 values, since the three fields have six bits together. -/
theorem State.toNat_statusWord (s : State) :
    s.statusWord.toNat = s.fault.toNat + 2 * s.ovf.toNat + 16 * s.errcode.toNat := by
  have hfields : ∀ (f o : Bool) (e : BitVec 4),
      ((BitVec.ofBool f).setWidth 32 ||| (BitVec.ofBool o).setWidth 32 <<< 1 ||| e.setWidth 32 <<< 4).toNat =
        f.toNat + 2 * o.toNat + 16 * e.toNat := by decide
  exact hfields s.fault s.ovf s.errcode

/-- The recursion over the list of contexts is the sum over the context numbers that R63 writes. -/
theorem contextBits_eq_sum (b : Channel → Bool) (l : List Channel) :
    contextBits b l = ∑ c ∈ Finset.range l.length, ((l[c]?).any b).toNat * 2 ^ c := by
  induction l with
  | nil => rfl
  | cons ch rest ih =>
    rw [contextBits, ih, List.length_cons, Finset.sum_range_succ', Finset.mul_sum]
    simp only [List.getElem?_cons_succ, List.getElem?_cons_zero, Option.any_some, pow_succ, pow_zero, mul_one]
    rw [Nat.add_comm]
    exact congrArg (· + _) (Finset.sum_congr rfl fun c _ => by ring)

/-- A register of two halves as the sum over the contexts: at most 16 contexts, so the halves do not overlap (R36,
R37). -/
theorem toNat_halves (p q : Channel → Bool) (l : List Channel) (hl : l.length ≤ 16) :
    (BitVec.ofNat 32 (contextBits p l + 2 ^ 16 * contextBits q l)).toNat =
      ∑ c ∈ Finset.range l.length, (((l[c]?).any p).toNat * 2 ^ c + ((l[c]?).any q).toNat * 2 ^ (16 + c)) := by
  have hpow : 2 ^ l.length ≤ 2 ^ 16 := Nat.pow_le_pow_right (by decide) hl
  have hp := contextBits_lt p l
  have hq := contextBits_lt q l
  rw [BitVec.toNat_ofNat, Nat.mod_eq_of_lt (by omega), contextBits_eq_sum, contextBits_eq_sum, Finset.mul_sum,
    ← Finset.sum_add_distrib]
  exact Finset.sum_congr rfl fun c _ => by rw [pow_add]; ring

/-- A register of one half as the sum over the contexts (R38). -/
theorem toNat_half (p : Channel → Bool) (l : List Channel) (hl : l.length ≤ 16) :
    (BitVec.ofNat 32 (contextBits p l)).toNat = ∑ c ∈ Finset.range l.length, ((l[c]?).any p).toNat * 2 ^ c := by
  have hpow : 2 ^ l.length ≤ 2 ^ 16 := Nat.pow_le_pow_right (by decide) hl
  have hp := contextBits_lt p l
  rw [BitVec.toNat_ofNat, Nat.mod_eq_of_lt (by omega), contextBits_eq_sum]

/-! What a write to each offset does. -/

section

variable {s : State} {off : Nat} (v : Word)

/-- A block with a fault ignores writes (R67). -/
theorem busWrite_of_fault (off : Nat) (h : s.fault = true) : busWrite off v s = .next s := if_pos h

/-- `STATUS` takes a one in bit 1 and nothing else (R33, R67). -/
theorem busWrite_status :
    busWrite 0x008 v s =
      .next { s with ovf := if v.getLsbD 1 = true ∧ s.fault = false then false else s.ovf } := by
  have hstatus : 0x008 = Config.offStatus := rfl
  by_cases hfault : s.fault = true
  · rw [busWrite_of_fault v _ hfault, if_neg (by simp [hfault])]
  · by_cases hbit : v.getLsbD 1 = true
    · rw [busWrite, if_neg hfault, if_pos hstatus, if_pos hbit, if_pos ⟨hbit, Bool.eq_false_of_not_eq_true hfault⟩,
        State.clearOvf]
    · rw [busWrite, if_neg hfault, if_pos hstatus, if_neg hbit, if_neg fun h => hbit h.1]

/-- An offset that no row of R64 lists takes no write (R65, R66). -/
theorem busWrite_unlisted (hstatus : off ≠ 0x008) (hcmd : off ≠ 0x00C) (hbuf : ¬ (0x400 ≤ off ∧ off < 0x600)) :
    busWrite off v s = .next s := by
  unfold busWrite
  split_ifs with hfault hs hbit hc hxre hxim
  · rfl
  · exact absurd hs hstatus
  · exact absurd hs hstatus
  · exact absurd hc hcmd
  · exact absurd hxre (by simp only [Config.offXre]; omega)
  · exact absurd hxim (by simp only [Config.offXim]; omega)
  · rfl

/-- The offset of entry `i` of `XRE` takes the word (R64). -/
theorem busWrite_xre (hfault : s.fault = false) {i : Nat} (hi : i < 64) :
    busWrite (0x400 + 4 * i) v s = .next (s.setXre i v) := by
  have hword : (0x400 + 4 * i - 0x400) / 4 = i := by omega
  unfold busWrite Config.offStatus Config.offCmd Config.offXre
  rw [if_neg (by simp [hfault]), if_neg (by omega), if_neg (by omega), if_pos (by omega), hword]

/-- The offset of entry `i` of `XIM` takes the word (R64). -/
theorem busWrite_xim (hfault : s.fault = false) {i : Nat} (hi : i < 64) :
    busWrite (0x500 + 4 * i) v s = .next (s.setXim i v) := by
  have hword : (0x500 + 4 * i - 0x500) / 4 = i := by omega
  unfold busWrite Config.offStatus Config.offCmd Config.offXre Config.offXim
  rw [if_neg (by simp [hfault]), if_neg (by omega), if_neg (by omega), if_neg (by omega), if_pos (by omega), hword]

end

end Sys2Proof.Machine

/-! The statements on the register window (spec/20_memory.md). -/

namespace Sys2Proof.Machine

open Sys2Proof.Stating

/-- Settles O10, by the table of R63 row by row: the registers at fixed offsets, the sums over the contexts, the buffers
and the reserved offsets. -/
theorem busReadReturnsTheMappedWord : Obligations.BusReadReturnsTheMappedWord := by
  intro s hn
  have hcfg : (busRead s 0x004).toNat = s.nch := Nat.mod_eq_of_lt (hn.trans_lt (by decide))
  exact ⟨rfl, hcfg, s.toNat_statusWord, rfl, rfl, toNat_halves _ _ _ hn, toNat_halves _ _ _ hn, toNat_half _ _ hn,
    busRead_buffers s, fun _ => busRead_reserved s⟩

/-- Settles O12: the write stores by `setXre` or `setXim`, whose reads the window's rules give. -/
theorem operandWriteStoresTheWord : Obligations.OperandWriteStoresTheWord := by
  intro s i v hfault
  have hi := i.isLt
  refine ⟨⟨s.setXre i v, busWrite_xre v hfault hi, rfl, ?_, fun j hj => ?_, ?_, fun off hoff => ?_⟩,
    ⟨s.setXim i v, busWrite_xim v hfault hi, rfl, ?_, fun j hj => ?_, ?_, fun off hoff => ?_⟩⟩
  · exact (getElem_setEntry s.xre i v hi).trans (if_pos rfl)
  · exact (getElem_setEntry s.xre i v j.isLt).trans (if_neg (Fin.val_ne_of_ne hj))
  · rw [busRead_setXre s hi, if_pos (by omega)]
  · rw [busRead_setXre s hi, if_neg hoff]
  · exact (getElem_setEntry s.xim i v hi).trans (if_pos rfl)
  · exact (getElem_setEntry s.xim i v j.isLt).trans (if_neg (Fin.val_ne_of_ne hj))
  · rw [busRead_setXim s hi, if_pos (by omega)]
  · rw [busRead_setXim s hi, if_neg hoff]

/-- Settles O9: writes are ignored, only `STATUS` shows the fault, and O13 gives its fields. -/
theorem faultedBlockIgnoresEveryWrite : Obligations.FaultedBlockIgnoresEveryWrite := by
  intro s hfault
  obtain ⟨hbit, -, -, hcode, -⟩ := statusReadsItsFields s
  exact ⟨fun off v => busWrite_of_fault v off hfault,
    fun off hoff => (busRead_with_flags s false s.ovf s.errcode hoff).symm, hbit.trans hfault, hcode⟩

/-- Settles O11, by the rules of a write to an offset that R64 does not list and to `STATUS`. -/
theorem reservedAndReadOnlyOffsetsIgnoreWrites : Obligations.ReservedAndReadOnlyOffsetsIgnoreWrites := by
  refine fun s off v => ⟨busWrite_unlisted v, ?_, busRead_reserved s⟩
  rintro rfl
  exact busWrite_status v

end Sys2Proof.Machine

/-! The decoder reads back every encoded command (R92 to R96). -/

namespace Sys2Proof

theorem ofBit_toBit (m : Mode) : Mode.ofBit m.toBit = m := by cases m <;> rfl

/-- The `ARG` field of format I: the mode bit below seven zeros (R95). -/
theorem modeArg_fields (b : Bool) :
    (0#7 ++ BitVec.ofBool b).extractLsb' 1 7 = 0#7 ∧ (0#7 ++ BitVec.ofBool b).getLsbD 0 = b := by
  cases b <;> decide

section

variable (r a n : BitVec 8) (c o : BitVec 4)

theorem decodeZ_packWord : decodeZ (packWord r 0#8 0#8 0#4 o) = .ok .nop := by
  simp [decodeZ]

theorem decodeT_packWord (mk : BitVec 8 → Instr) : decodeT (packWord r 0#8 n 0#4 o) mk = .ok (mk n) := by
  simp [decodeT]

theorem decodeI_packWord (m : Mode) (mk : BitVec 4 → Mode → Instr) :
    decodeI (packWord r (0#7 ++ BitVec.ofBool m.toBit) 0#8 c o) mk = .ok (mk c m) := by
  obtain ⟨hzero, hbit⟩ := modeArg_fields m.toBit
  rw [decodeI, fieldN_packWord, fieldArg_packWord, fieldCh_packWord, hzero, hbit, ofBit_toBit, if_neg (by simp)]

theorem decodeQ_packWord (mk : BitVec 4 → BitVec 8 → Instr) : decodeQ (packWord r a 0#8 c o) mk = .ok (mk c a) := by
  simp [decodeQ]

end

/-- Every command decodes from its own word: its operation code selects its format, and the format's word passes the
format's checks with the fields it was put together from. -/
theorem decode_encode (i : Instr) : decode (encode i) = .ok i := by
  cases i with
  | nop => simp [encode, decode, opcReserved, decodeZ_packWord]
  | fft n | dct2 n | dct3 n | dct4 n | dst2 n | dst4 n => simp [encode, decode, opcReserved, decodeT_packWord]
  | ainit c m | sinit c m => simp [encode, decode, opcReserved, decodeI_packWord]
  | qmfa c k | qmfs c k => simp [encode, decode, opcReserved, decodeQ_packWord]

theorem encode_injective : Function.Injective encode := by
  intro i j h
  have hij : (.ok i : Except Cause Instr) = .ok j := by rw [← decode_encode i, h, decode_encode]
  exact Except.ok.inj hij

end Sys2Proof

/-! What the decoder's fault says of the word (R91 steps 1 to 7, R98). -/

namespace Sys2Proof

/-- `FixedBitSet w`: a bit that the format of the word's operation code requires to be 0 is 1 (R91 steps 2 to 7). -/
inductive FixedBitSet (w : Word) : Prop
  | reserved (h : fieldReserved w ≠ 0#8)
  | formatZ (ho : (fieldOpc w).toNat = 0) (h : fieldCh w ≠ 0#4 ∨ fieldN w ≠ 0#8 ∨ fieldArg w ≠ 0#8)
  | formatT (hlo : 1 ≤ (fieldOpc w).toNat) (hhi : (fieldOpc w).toNat ≤ 6) (h : fieldCh w ≠ 0#4 ∨ fieldArg w ≠ 0#8)
  | formatI (ho : (fieldOpc w).toNat = 8 ∨ (fieldOpc w).toNat = 10)
      (h : fieldN w ≠ 0#8 ∨ (fieldArg w).extractLsb' 1 7 ≠ 0#7)
  | formatQ (ho : (fieldOpc w).toNat = 9 ∨ (fieldOpc w).toNat = 11) (h : fieldN w ≠ 0#8)

/-- An operation code that is not reserved is a row's (R92). -/
theorem opc_of_not_reserved : ∀ o : BitVec 4, opcReserved o = false → o.toNat ≤ 6 ∨ (8 ≤ o.toNat ∧ o.toNat ≤ 11) := by
  decide

section

variable {w : Word} {k : Cause}

theorem decodeZ_error (h : decodeZ w = .error k) :
    k = .enc ∧ (fieldCh w ≠ 0#4 ∨ fieldN w ≠ 0#8 ∨ fieldArg w ≠ 0#8) := by
  unfold decodeZ at h
  split_ifs at h with hz
  cases h
  exact ⟨rfl, hz⟩

theorem decodeT_error {mk : BitVec 8 → Instr} (h : decodeT w mk = .error k) :
    k = .enc ∧ (fieldCh w ≠ 0#4 ∨ fieldArg w ≠ 0#8) := by
  unfold decodeT at h
  split_ifs at h with hz
  cases h
  exact ⟨rfl, hz⟩

theorem decodeI_error {mk : BitVec 4 → Mode → Instr} (h : decodeI w mk = .error k) :
    k = .enc ∧ (fieldN w ≠ 0#8 ∨ (fieldArg w).extractLsb' 1 7 ≠ 0#7) := by
  unfold decodeI at h
  split_ifs at h with hz
  cases h
  exact ⟨rfl, hz⟩

theorem decodeQ_error {mk : BitVec 4 → BitVec 8 → Instr} (h : decodeQ w mk = .error k) :
    k = .enc ∧ fieldN w ≠ 0#8 := by
  unfold decodeQ at h
  split_ifs at h with hz
  cases h
  exact ⟨rfl, hz⟩

/-- The reserved operation codes as numbers of the word (R92). -/
theorem opcReserved_iff (w : Word) : opcReserved (fieldOpc w) = true ↔
    w.toNat % 16 = 7 ∨ w.toNat % 16 = 12 ∨ w.toNat % 16 = 13 ∨ w.toNat % 16 = 14 ∨ w.toNat % 16 = 15 := by
  obtain ⟨hopc, -⟩ := fields_toNat w
  simp [opcReserved, ← hopc, BitVec.toNat_eq, or_assoc]

/-- All that the decoder's fault can mean: a reserved operation code, or, with any other, a bit set that must be 0. -/
theorem decode_error (h : decode w = .error k) :
    (k = .opc ∧ opcReserved (fieldOpc w) = true) ∨
    (k = .enc ∧ opcReserved (fieldOpc w) = false ∧ FixedBitSet w) := by
  unfold decode at h
  split_ifs at h with hres hrs
  · cases h
    exact .inl ⟨rfl, hres⟩
  · cases h
    exact .inr ⟨rfl, Bool.eq_false_of_not_eq_true hres, .reserved hrs⟩
  · have hrow := Bool.eq_false_of_not_eq_true hres
    split at h
    case h_1 ho =>
      obtain ⟨hk, hz⟩ := decodeZ_error h
      exact .inr ⟨hk, hrow, .formatZ ho hz⟩
    case h_2 ho | h_3 ho | h_4 ho | h_5 ho | h_6 ho | h_7 ho =>
      obtain ⟨hk, ht⟩ := decodeT_error h
      exact .inr ⟨hk, hrow, .formatT (by omega) (by omega) ht⟩
    case h_8 ho | h_10 ho =>
      obtain ⟨hk, hi⟩ := decodeI_error h
      exact .inr ⟨hk, hrow, .formatI (by omega) hi⟩
    case h_9 ho | h_11 ho =>
      obtain ⟨hk, hq⟩ := decodeQ_error h
      exact .inr ⟨hk, hrow, .formatQ (by omega) hq⟩
    case h_12 =>
      have hcodes := opc_of_not_reserved _ hrow
      exfalso
      grind

/-- The cause of a word that does not decode depends on its operation code alone (R98). -/
theorem decode_error_cause (h : decode w = .error k) :
    k = if opcReserved (fieldOpc w) = true then .opc else .enc := by
  obtain ⟨rfl, hres⟩ | ⟨rfl, hrow, -⟩ := decode_error h
  · rw [if_pos hres]
  · rw [if_neg (by simp [hrow])]

end

end Sys2Proof

/-! The rows of the opcode table (R98). -/

namespace Sys2Proof

section

variable (w v : Word)

@[simp] theorem fieldOpc_and : fieldOpc (w &&& v) = fieldOpc w &&& fieldOpc v := BitVec.extractLsb'_and

@[simp] theorem fieldCh_and : fieldCh (w &&& v) = fieldCh w &&& fieldCh v := BitVec.extractLsb'_and

@[simp] theorem fieldN_and : fieldN (w &&& v) = fieldN w &&& fieldN v := BitVec.extractLsb'_and

@[simp] theorem fieldArg_and : fieldArg (w &&& v) = fieldArg w &&& fieldArg v := BitVec.extractLsb'_and

@[simp] theorem fieldReserved_and : fieldReserved (w &&& v) = fieldReserved w &&& fieldReserved v :=
  BitVec.extractLsb'_and

end

theorem and_ones8 (x : BitVec 8) : x &&& 0xFF#8 = x := BitVec.and_allOnes

theorem and_ones4 (x : BitVec 4) : x &&& 0xF#4 = x := BitVec.and_allOnes

/-- The mask of format I leaves the mode bit of `ARG` open (R95). -/
theorem and_modeMask_eq_zero (a : BitVec 8) : a &&& 0xFE#8 = 0#8 ↔ ∃ b : Mode, a = 0#7 ++ BitVec.ofBool b.toBit := by
  have hbit : ∀ a : BitVec 8, a &&& 0xFE#8 = 0#8 → a = 0#7 ++ BitVec.ofBool (a.getLsbD 0) := by decide
  refine ⟨fun h => ⟨Mode.ofBit (a.getLsbD 0), ?_⟩, ?_⟩
  · rw [toBit_ofBit]
    exact hbit a h
  · rintro ⟨b, rfl⟩
    cases b <;> decide

section

variable {w : Word} {m : String} {o : BitVec 4}

/-- A word is known by its fields. -/
theorem eq_packWord_iff {r a n : BitVec 8} {c : BitVec 4} :
    w = packWord r a n c o ↔
      fieldReserved w = r ∧ fieldArg w = a ∧ fieldN w = n ∧ fieldCh w = c ∧ fieldOpc w = o := by
  constructor
  · rintro rfl
    simp
  · rintro ⟨hr, ha, hn, hc, ho⟩
    exact (packWord_eq_of_fields hr ha hn hc ho).symm

/-- A row is selected field by field. -/
theorem matchesWord_packWord {mr ma mn r a n : BitVec 8} {mc mo c : BitVec 4} :
    (⟨m, packWord mr ma mn mc mo, packWord r a n c o⟩ : OpcodeRow).matchesWord w = true ↔
      fieldReserved w &&& mr = r ∧ fieldArg w &&& ma = a ∧ fieldN w &&& mn = n ∧ fieldCh w &&& mc = c ∧
        fieldOpc w &&& mo = o := by
  rw [OpcodeRow.matchesWord, beq_iff_eq, eq_packWord_iff]
  simp

/-- A row of format Z fixes every bit (R96). -/
theorem matchesWord_formatZ :
    (⟨m, packWord 0xFF#8 0xFF#8 0xFF#8 0xF#4 0xF#4, packWord 0#8 0#8 0#8 0#4 o⟩ : OpcodeRow).matchesWord w = true ↔
      w = packWord 0#8 0#8 0#8 0#4 o := by
  simp only [matchesWord_packWord, eq_packWord_iff, and_ones8, and_ones4]

/-- A row of format T leaves `N` open (R93). -/
theorem matchesWord_formatT :
    (⟨m, packWord 0xFF#8 0xFF#8 0#8 0xF#4 0xF#4, packWord 0#8 0#8 0#8 0#4 o⟩ : OpcodeRow).matchesWord w = true ↔
      ∃ n, w = packWord 0#8 0#8 n 0#4 o := by
  simp [matchesWord_packWord, eq_packWord_iff, and_ones8, and_ones4]

/-- A row of format I leaves `CH` and the mode bit open (R95). -/
theorem matchesWord_formatI :
    (⟨m, packWord 0xFF#8 0xFE#8 0xFF#8 0#4 0xF#4, packWord 0#8 0#8 0#8 0#4 o⟩ : OpcodeRow).matchesWord w = true ↔
      ∃ (c : BitVec 4) (b : Mode), w = packWord 0#8 (0#7 ++ BitVec.ofBool b.toBit) 0#8 c o := by
  simp [matchesWord_packWord, eq_packWord_iff, and_ones8, and_ones4, and_modeMask_eq_zero]

/-- A row of format Q leaves `CH` and `ARG` open (R94). -/
theorem matchesWord_formatQ :
    (⟨m, packWord 0xFF#8 0#8 0xFF#8 0#4 0xF#4, packWord 0#8 0#8 0#8 0#4 o⟩ : OpcodeRow).matchesWord w = true ↔
      ∃ c k, w = packWord 0#8 k 0#8 c o := by
  simp [matchesWord_packWord, eq_packWord_iff, and_ones8, and_ones4]

end

/-- A row selects words of its own commands only. -/
theorem exists_encode_of_matchesWord {r : OpcodeRow} {w : Word} (hr : r ∈ opcodeRows) (h : r.matchesWord w = true) :
    ∃ i : Instr, w = encode i ∧ i.mnemonic = r.mnemonic := by
  simp only [opcodeRows, List.mem_cons, List.not_mem_nil, or_false] at hr
  obtain rfl | rfl | rfl | rfl | rfl | rfl | rfl | rfl | rfl | rfl | rfl := hr
  · exact ⟨.nop, (matchesWord_formatZ (o := 0#4)).1 h, rfl⟩
  · exact ((matchesWord_formatT (o := 1#4)).1 h).imp' .fft fun _ hw => ⟨hw, rfl⟩
  · exact ((matchesWord_formatT (o := 2#4)).1 h).imp' .dct2 fun _ hw => ⟨hw, rfl⟩
  · exact ((matchesWord_formatT (o := 3#4)).1 h).imp' .dct3 fun _ hw => ⟨hw, rfl⟩
  · exact ((matchesWord_formatT (o := 4#4)).1 h).imp' .dct4 fun _ hw => ⟨hw, rfl⟩
  · exact ((matchesWord_formatT (o := 5#4)).1 h).imp' .dst2 fun _ hw => ⟨hw, rfl⟩
  · exact ((matchesWord_formatT (o := 6#4)).1 h).imp' .dst4 fun _ hw => ⟨hw, rfl⟩
  · obtain ⟨c, b, hw⟩ := (matchesWord_formatI (o := 8#4)).1 h
    exact ⟨.ainit c b, hw, rfl⟩
  · obtain ⟨c, k, hw⟩ := (matchesWord_formatQ (o := 9#4)).1 h
    exact ⟨.qmfa c k, hw, rfl⟩
  · obtain ⟨c, b, hw⟩ := (matchesWord_formatI (o := 10#4)).1 h
    exact ⟨.sinit c b, hw, rfl⟩
  · obtain ⟨c, k, hw⟩ := (matchesWord_formatQ (o := 11#4)).1 h
    exact ⟨.qmfs c k, hw, rfl⟩

/-- Every command's word selects a row. -/
theorem exists_matchesWord_encode (i : Instr) : ∃ r ∈ opcodeRows, r.matchesWord (encode i) = true := by
  cases i with
  | nop => exact ⟨opcodeRows[0], List.getElem_mem _, (matchesWord_formatZ (o := 0#4)).2 rfl⟩
  | fft n => exact ⟨opcodeRows[1], List.getElem_mem _, (matchesWord_formatT (o := 1#4)).2 ⟨n, rfl⟩⟩
  | dct2 n => exact ⟨opcodeRows[2], List.getElem_mem _, (matchesWord_formatT (o := 2#4)).2 ⟨n, rfl⟩⟩
  | dct3 n => exact ⟨opcodeRows[3], List.getElem_mem _, (matchesWord_formatT (o := 3#4)).2 ⟨n, rfl⟩⟩
  | dct4 n => exact ⟨opcodeRows[4], List.getElem_mem _, (matchesWord_formatT (o := 4#4)).2 ⟨n, rfl⟩⟩
  | dst2 n => exact ⟨opcodeRows[5], List.getElem_mem _, (matchesWord_formatT (o := 5#4)).2 ⟨n, rfl⟩⟩
  | dst4 n => exact ⟨opcodeRows[6], List.getElem_mem _, (matchesWord_formatT (o := 6#4)).2 ⟨n, rfl⟩⟩
  | ainit c m => exact ⟨opcodeRows[7], List.getElem_mem _, (matchesWord_formatI (o := 8#4)).2 ⟨c, m, rfl⟩⟩
  | qmfa c kx => exact ⟨opcodeRows[8], List.getElem_mem _, (matchesWord_formatQ (o := 9#4)).2 ⟨c, kx, rfl⟩⟩
  | sinit c m => exact ⟨opcodeRows[9], List.getElem_mem _, (matchesWord_formatI (o := 10#4)).2 ⟨c, m, rfl⟩⟩
  | qmfs c nb => exact ⟨opcodeRows[10], List.getElem_mem _, (matchesWord_formatQ (o := 11#4)).2 ⟨c, nb, rfl⟩⟩

/-- No two rows have one mnemonic. -/
theorem opcodeRow_eq_of_mnemonic :
    ∀ r ∈ opcodeRows, ∀ r' ∈ opcodeRows, r.mnemonic = r'.mnemonic → r = r' := by decide

end Sys2Proof

/-! Words and fields as numbers (R90, R97), and the host's mnemonics, which form words as numbers (R100). -/

namespace Sys2Proof

/-- The fields of a word stand side by side in its number (R90). -/
theorem toNat_packWord (r a n : BitVec 8) (c o : BitVec 4) :
    (packWord r a n c o).toNat =
      r.toNat <<< 24 ||| a.toNat <<< 16 ||| n.toNat <<< 8 ||| c.toNat <<< 4 ||| o.toNat := by
  simp only [packWord, BitVec.toNat_append, Nat.shiftLeft_or_distrib, ← Nat.shiftLeft_add]

/-- The `ARG` field of format I as a number is the mode value (R9, R95). -/
theorem toNat_modeArg (b : Bool) : (0#7 ++ BitVec.ofBool b).toNat = b.toNat := by cases b <;> rfl

/-- Bits 7:1 of a field are 0 where half its number is. -/
theorem extractLsb'_ne_zero_iff (a : BitVec 8) : a.extractLsb' 1 7 ≠ 0#7 ↔ a.toNat / 2 ≠ 0 := by
  have h := a.isLt
  rw [ne_eq, BitVec.toNat_eq, BitVec.extractLsb'_toNat, Nat.shiftRight_eq_div_pow, BitVec.toNat_ofNat]
  omega

end Sys2Proof

namespace Sys2Proof.Machine

/-- A mnemonic whose number is that of a word writes the word to `CMD`. -/
theorem Asm.cmd_eq_commandWrite {v : Nat} {w : Word} (h : v = w.toNat) : Asm.cmd v = commandWrite w := by
  subst h
  have hw : wrap32 (w.toNat : Int) = w := by simp [wrap32]
  rw [Asm.cmd, Asm.wr, hw]
  rfl

end Sys2Proof.Machine

/-! The command word of R91: the checks that need the state, made by the commands, and the seven steps as a whole. -/

namespace Sys2Proof.Machine

open Sys2Proof.Stating

/-- The check of a transform's size field (R91 step 4). -/
def sizeFault (n : BitVec 8) : Option Cause :=
  if n.toNat = 16 ∨ n.toNat = 32 ∨ n.toNat = 64 then none else some .size

/-- The check of a construction command's channel (R91 step 5). -/
def channelFault (s : State) (c : BitVec 4) : Option Cause := if s.nch ≤ c.toNat then some .chan else none

/-- The checks of a slot command (R91 steps 6 and 7). -/
def slotFault (s : State) (c : BitVec 4) (arg : BitVec 8) (limit : Nat) (valid : Channel → Bool) : Option Cause :=
  if s.nch ≤ c.toNat then some .chan
  else if limit < arg.toNat then some .arg
  else if (s.channels[c.toNat]?).any valid = false then some .uninit
  else none

/-- The first check that a command's own fields fail in a state (R91 steps 4 to 7). -/
def commandFault (s : State) : Instr → Option Cause
  | .nop => none
  | .fft n | .dct2 n | .dct3 n | .dct4 n | .dst2 n | .dst4 n => sizeFault n
  | .ainit c _ | .sinit c _ => channelFault s c
  | .qmfa c kx => slotFault s c kx 32 (·.ana.valid)
  | .qmfs c nb => slotFault s c nb 64 (·.syn.valid)

/-- A word written to `CMD` while `FAULT = 0` is executed (R34, R64). -/
theorem busWrite_cmd {s : State} {w : Word} (hrun : s.fault = false) : busWrite 0x00C w s = runCommand w s := by
  rw [busWrite, if_neg (by simp [hrun])]
  rfl

/-- `s.FaultsOr w k t`: `t` is `s` with the fault `k` of the word `w` taken, or, where there is no fault, a state with
the fault record of `s`. -/
def State.FaultsOr (s : State) (w : Word) : Option Cause → State → Prop
  | some k, t => t = s.raiseFault k w
  | none, t => s.SameFault t

section

variable {s t : State} {i : Instr}

theorem sizeFault_of_points {n : BitVec 8} {sz : Size} (h : n.toNat = sz.points) : sizeFault n = none := by
  refine if_pos ?_
  cases sz with
  | n16 => exact .inl h
  | n32 => exact .inr (.inl h)
  | n64 => exact .inr (.inr h)

theorem sizeFault_of_ne_points {n : BitVec 8} (h : ∀ sz : Size, n.toNat ≠ sz.points) : sizeFault n = some .size :=
  if_neg (not_or.2 ⟨h .n16, not_or.2 ⟨h .n32, h .n64⟩⟩)

theorem onSize_faultsOr {n : BitVec 8} {run : Size → State} (h : onSize i n s run = .next t)
    (hrun : ∀ sz, s.SameFault (run sz)) : s.FaultsOr (encode i) (sizeFault n) t := by
  obtain ⟨sz, hn, rfl⟩ | ⟨hn, rfl⟩ := onSize_next h
  · rw [sizeFault_of_points hn]
    exact hrun sz
  · rw [sizeFault_of_ne_points hn]
    rfl

theorem lt_nch_of_getElem? {c : Nat} {ch : Channel} (h : s.channels[c]? = some ch) : c < s.nch :=
  (List.getElem?_eq_some_iff.1 h).1

theorem onChannel_faultsOr {c : BitVec 4} {run : Channel → State} (h : onChannel i c s run = .next t)
    (hrun : ∀ ch, s.SameFault (run ch)) : s.FaultsOr (encode i) (channelFault s c) t := by
  obtain ⟨ch, hch, rfl⟩ | ⟨hc, rfl⟩ := onChannel_next h
  · rw [channelFault, if_neg (Nat.not_le.2 (lt_nch_of_getElem? hch))]
    exact hrun ch
  · rw [channelFault, if_pos hc]
    rfl

theorem onSlot_faultsOr {c : BitVec 4} {arg : BitVec 8} {limit : Nat} {valid : Channel → Bool} {run : Channel → State}
    (h : onSlot i c arg limit valid s run = .next t) (hrun : ∀ ch, s.SameFault (run ch)) :
    s.FaultsOr (encode i) (slotFault s c arg limit valid) t := by
  unfold slotFault
  obtain ⟨ch, hch, harg, hv, rfl⟩ | ⟨hc, rfl⟩ | ⟨hc, harg, rfl⟩ | ⟨ch, hch, harg, hv, rfl⟩ := onSlot_next h
  · rw [if_neg (Nat.not_le.2 (lt_nch_of_getElem? hch)), if_neg (Nat.not_lt.2 harg), if_neg (by simp [hch, hv])]
    exact hrun ch
  · rw [if_pos hc]
    rfl
  · rw [if_neg (Nat.not_le.2 hc), if_pos harg]
    rfl
  · rw [if_neg (Nat.not_le.2 (lt_nch_of_getElem? hch)), if_neg (Nat.not_lt.2 harg), if_pos (by simp [hch, hv])]
    rfl

/-- A command takes the fault of the first check it fails, or completes and leaves the fault record (R91, R276). -/
theorem exec_faultsOr (h : exec i s = .next t) : s.FaultsOr (encode i) (commandFault s i) t := by
  cases i with
  | nop => cases h; exact ⟨rfl, rfl, rfl⟩
  | fft n => exact onSize_faultsOr h fun _ => ⟨rfl, rfl, rfl⟩
  | dct2 n | dct3 n | dct4 n | dst2 n | dst4 n => exact onSize_faultsOr h fun _ => ⟨rfl, rfl, rfl⟩
  | ainit c m | sinit c m => exact onChannel_faultsOr h fun _ => ⟨rfl, rfl, rfl⟩
  | qmfa c kx => exact onSlot_faultsOr h fun _ => ⟨rfl, rfl, rfl⟩
  | qmfs c nb =>
    refine onSlot_faultsOr h fun ch => ?_
    rw [synthesisSlot_eq]
    exact ⟨rfl, rfl, rfl⟩

/-- The seven steps of R91 over a command's own word come to the checks of the command's fields: the word's fixed bits
are right. -/
theorem causeOfR91_encode (s : State) (i : Instr) : causeOfR91 s (encode i) = commandFault s i := by
  obtain ⟨hopc, hch, hn, harg, hrs⟩ := fields_toNat (encode i)
  simp only [causeOfR91, ← hopc, ← hch, ← hn, ← harg, ← hrs]
  cases i with
  | nop => simp [encode, commandFault]
  | fft n | dct2 n | dct3 n | dct4 n | dst2 n | dst4 n => simp [encode, commandFault, sizeFault]
  | ainit c m | sinit c m =>
    have hm : m.toBit.toNat / 2 = 0 := Nat.div_eq_of_lt m.toBit.toNat_lt
    simp [encode, commandFault, channelFault, toNat_modeArg, hm]
  | qmfa c kx => simp [encode, commandFault, slotFault, anaValid]
  | qmfs c nb => simp [encode, commandFault, slotFault, synValid]

/-- The operands that R91 takes from a word are its fields. -/
theorem operandsOfR91 (w : Word) :
    BitVec.ofNat 4 (w.toNat / 16) = fieldCh w ∧ BitVec.ofNat 8 (w.toNat / 256) = fieldN w ∧
    BitVec.ofNat 8 (w.toNat / 65536) = fieldArg w ∧ w.toNat / 65536 % 2 = (fieldArg w).toNat % 2 := by
  obtain ⟨-, hch, hn, harg, -⟩ := fields_toNat w
  refine ⟨BitVec.eq_of_toNat_eq ?_, BitVec.eq_of_toNat_eq ?_, BitVec.eq_of_toNat_eq ?_, ?_⟩
  · rw [hch, BitVec.toNat_ofNat]
  · rw [hn, BitVec.toNat_ofNat]
  · rw [harg, BitVec.toNat_ofNat]
  · omega

/-- R91 runs a command for the command's own word. -/
theorem commandOfR91_encode (i : Instr) : commandOfR91 (encode i) = i := by
  obtain ⟨hopc, -⟩ := fields_toNat (encode i)
  obtain ⟨hch, hn, harg, hmode⟩ := operandsOfR91 (encode i)
  simp only [commandOfR91, ← hopc, hch, hn, harg, hmode]
  cases i with
  | nop => simp [encode]
  | fft n | dct2 n | dct3 n | dct4 n | dst2 n | dst4 n => simp [encode]
  | ainit c m | sinit c m => cases m <;> simp [encode, Mode.toBit]
  | qmfa c k | qmfs c k => simp [encode]

/-- A word that does not decode fails one of R91's checks of the word's own bits, before any check of the state. -/
theorem causeOfR91_of_decode_error {w : Word} {k : Cause} (s : State) (h : decode w = .error k) :
    causeOfR91 s w = some k := by
  have hres := opcReserved_iff w
  obtain ⟨hopc, hch, hn, harg, hrs⟩ := fields_toNat w
  obtain ⟨rfl, hreserved⟩ | ⟨rfl, hrow, hbit⟩ := decode_error h
  · exact if_pos (hres.1 hreserved)
  · rw [causeOfR91, if_neg (by simp [← hres, hrow])]
    simp only [← hopc, ← hch, ← hn, ← harg, ← hrs]
    refine ite_eq_left_iff.2 fun hclear => ?_
    cases hbit with
    | reserved h => exact absurd (BitVec.toNat_ne.1 h) hclear
    | formatZ ho h =>
      rw [if_pos ho, if_pos]
      simp only [BitVec.toNat_ne] at h
      exact h
    | formatT hlo hhi h =>
      rw [if_neg (by omega), if_pos hhi, if_pos]
      simp only [BitVec.toNat_ne] at h
      exact h
    | formatI ho h =>
      rw [if_neg (by omega), if_neg (by omega), if_pos ho, if_pos]
      rw [extractLsb'_ne_zero_iff, BitVec.toNat_ne] at h
      exact h
    | formatQ ho h =>
      have hn : (fieldN w).toNat ≠ 0 := BitVec.toNat_ne.1 h
      rw [if_neg (by omega), if_neg (by omega), if_neg (by omega), if_pos hn, if_pos hn, ite_self]

end

end Sys2Proof.Machine

/-! The statements on the encoding (spec/30_encoding.md). -/

namespace Sys2Proof.Machine

open Sys2Proof.Stating

/-- Settles O1, by the format of each command. -/
theorem encodedCommandDecodesToItself : Obligations.EncodedCommandDecodesToItself :=
  decode_encode

/-- Settles O2: what decodes has the fixed bits of its format, and the fields are the command's. -/
theorem decodedWordIsTheEncodedCommand : Obligations.DecodedWordIsTheEncodedCommand :=
  fun _ _ => encode_of_decode

/-- Settles O3: a row selects the words of its own commands, which are the words that decode. -/
theorem decoderSelectsTheOpcodeRow : Obligations.DecoderSelectsTheOpcodeRow := by
  refine fun w => ⟨fun r hr r' hr' h h' => ?_, fun r hr h => ?_, fun hnone => ?_⟩
  · obtain ⟨i, hw, hi⟩ := exists_encode_of_matchesWord hr h
    obtain ⟨j, hw', hj⟩ := exists_encode_of_matchesWord hr' h'
    obtain rfl := encode_injective (hw.symm.trans hw')
    exact opcodeRow_eq_of_mnemonic _ hr _ hr' (hi.symm.trans hj)
  · obtain ⟨i, rfl, hi⟩ := exists_encode_of_matchesWord hr h
    exact ⟨i, decode_encode i, hi⟩
  · cases hd : decode w with
    | ok i =>
      obtain ⟨r, hr, h⟩ := exists_matchesWord_encode i
      rw [encode_of_decode hd, hnone r hr] at h
      cases h
    | error k => simp only [decode_error_cause hd, opcReserved_iff]

/-- Settles O5, mnemonic by mnemonic: the number that the mnemonic forms is the number of the command's word. -/
theorem assemblerWritesTheEncodedCommand : Obligations.AssemblerWritesTheEncodedCommand := by
  refine ⟨?_, fun n => ⟨?_, ?_, ?_, ?_, ?_, ?_⟩, fun c m => ⟨?_, ?_⟩, fun c k => ⟨?_, ?_⟩⟩
  all_goals
    apply Asm.cmd_eq_commandWrite
    simp [encode, toNat_packWord, toNat_modeArg]

/-- Settles O8: a word that decodes is its command's own word, whose checks are those of the command's fields; any other
word fails a check of its own bits. -/
theorem commandWordRunsOrFaultsAsR91Orders : Obligations.CommandWordRunsOrFaultsAsR91Orders := by
  intro s w hrun
  rw [busWrite_cmd hrun, runCommand]
  cases hd : decode w with
  | error k => simp only [causeOfR91_of_decode_error s hd]
  | ok i =>
    obtain rfl := encode_of_decode hd
    obtain ⟨t, ht⟩ := exec_total i s
    have hout := exec_faultsOr ht
    rw [causeOfR91_encode, commandOfR91_encode]
    cases hk : commandFault s i with
    | some k =>
      rw [hk] at hout
      exact ht.trans (congrArg _ hout)
    | none =>
      rw [hk] at hout
      exact ⟨rfl, t, ht, hout⟩

/-- Settles O4: each of the eight words is the word of its command. -/
theorem wordsOfTheEncodingsDecode : Obligations.WordsOfTheEncodingsDecode :=
  ⟨decode_encode .nop, decode_encode (.fft 16#8), decode_encode (.dct4 32#8), decode_encode (.dst4 64#8),
    decode_encode (.ainit 1#4 .lp), decode_encode (.qmfa 1#4 32#8), decode_encode (.sinit 15#4 .hq),
    decode_encode (.qmfs 0#4 64#8)⟩

end Sys2Proof.Machine

/-! The numeric primitives `WR`, `RND`, `RSHR` and `ROT` as integers (R121 to R123, R132). -/

namespace Sys2Proof.Machine

open Sys2Proof.Stating

/-- `WR` is congruent to its argument modulo 2^32 (R10, R121). -/
theorem toInt_wr_emod (v : Int) : ((wr v).val.toInt - v) % 4294967296 = 0 := by
  have hbmod : (wr v).val.toInt = v.bmod 4294967296 := BitVec.toInt_ofInt ..
  rw [hbmod, Int.bmod_def]
  split_ifs <;> omega

/-- A value in `s32` goes through `WR` without the mark and unchanged (R121). -/
theorem wr_of_s32 {v : Int} (hlo : -2147483648 ≤ v) (hhi : v ≤ 2147483647) :
    (wr v).mark = false ∧ (wr v).val.toInt = v := by
  have hmark : ¬ (wr v).mark = true := by rw [mark_wr]; omega
  have hbmod : (wr v).val.toInt = v.bmod 4294967296 := BitVec.toInt_ofInt ..
  exact ⟨Bool.eq_false_of_not_eq_true hmark, hbmod.trans (Int.bmod_eq_of_le (by omega) (by omega))⟩

/-- `WR` of the value of a word is the word. -/
theorem wr_toInt (a : Word) : wr a.toInt = { val := a, mark := false } := by
  have hlo : -2147483648 ≤ a.toInt := BitVec.le_toInt a
  have hhi : a.toInt < 2147483648 := BitVec.toInt_lt
  exact congrArg₂ Marked.mk BitVec.ofInt_toInt (wr_of_s32 hlo (by omega)).1

/-- The shift of `RND` and `RSHR` is to the nearest, a tie going up (R122, R123). -/
theorem roundShift_nearest (a : Int) {s : Nat} (hs : 1 ≤ s) :
    2 * (2 ^ s * roundShift a s) - 2 ^ s ≤ 2 * a ∧ 2 * a < 2 * (2 ^ s * roundShift a s) + 2 ^ s := by
  obtain ⟨t, rfl⟩ : ∃ t, s = t + 1 := ⟨s - 1, by omega⟩
  have hround : roundShift a (t + 1) = (a + 2 ^ t) / 2 ^ (t + 1) := by
    simp [roundShift, Int.shiftRight_eq_div_pow]
  have hpow : (2 : Int) ^ (t + 1) = 2 * 2 ^ t := by ring
  have hpos : (0 : Int) < 2 ^ (t + 1) := by positivity
  have hdiv := Int.mul_ediv_add_emod (a + 2 ^ t) (2 ^ (t + 1))
  have hnonneg := Int.emod_nonneg (a + 2 ^ t) hpos.ne'
  have hlt := Int.emod_lt_of_pos (a + 2 ^ t) hpos
  rw [hround]
  omega

/-- A rounded shift is within 1/2 of the quotient (R122). -/
theorem abs_roundShift_sub_le (a : Int) {s : Nat} (hs : 1 ≤ s) : |(roundShift a s : ℝ) - a / 2 ^ s| ≤ 1 / 2 := by
  obtain ⟨hlo, hhi⟩ := roundShift_nearest a hs
  have hlo' : 2 * (2 ^ s * (roundShift a s : ℝ)) - 2 ^ s ≤ 2 * a := mod_cast hlo
  have hhi' : 2 * (a : ℝ) < 2 * (2 ^ s * (roundShift a s : ℝ)) + 2 ^ s := mod_cast hhi
  have hpow : (0 : ℝ) < 2 ^ s := by positivity
  rw [abs_le]
  constructor
  · rw [le_sub_iff_add_le, ← le_sub_iff_add_le', div_le_iff₀ hpow]
    linarith
  · rw [sub_le_iff_le_add, ← sub_le_iff_le_add', le_div_iff₀ hpow]
    linarith

/-- Shifting a multiple of a coefficient of one is exact. -/
theorem roundShift_mul_one (v : Int) : roundShift (v * 1073741824) coefBits = v := by
  have h := roundShift_nearest (v * 1073741824) (s := coefBits) (by decide)
  simp only [coefBits] at h ⊢
  omega

/-- `RSHR` by at least one bit stays in `s32`, so it is the rounded value itself (R123). -/
theorem toInt_rshr (v : Word) {s : Nat} (hs : 1 ≤ s) : (rshr v s).toInt = roundShift v.toInt s := by
  have hlo : -2147483648 ≤ v.toInt := BitVec.le_toInt v
  have hhi : v.toInt < 2147483648 := BitVec.toInt_lt
  have hnear := roundShift_nearest v.toInt hs
  have hpow : (2 : Int) ≤ 2 ^ s := by simpa using pow_le_pow_right₀ (a := (2 : Int)) (by norm_num) hs
  refine (wr_of_s32 ?_ ?_).2
  · nlinarith
  · nlinarith

/-- Settles O46: the two coefficients are 1 and 0, so one operand is rounded exactly. -/
theorem rotationsByQuarterTurnsAreExact : Obligations.RotationsByQuarterTurnsAreExact := by
  intro a b
  have hc0 : twc 0 = 1073741824 := by decide
  have hs0 : tws 0 = 0 := by decide
  have hc128 : twc 128 = 0 := by decide
  have hs128 : tws 128 = 1073741824 := by decide
  have hneg : 0 - a.toInt * 1073741824 = -a.toInt * 1073741824 := by ring
  simp only [rotRe, rotIm, rnd, hc0, hs0, hc128, hs128, mul_zero, add_zero, zero_add, sub_zero, hneg,
    roundShift_mul_one, wr_toInt, and_self]

/-- Settles O47. -/
theorem numericPrimitivesRoundAndWrap : Obligations.NumericPrimitivesRoundAndWrap := by
  refine ⟨fun v => ⟨toInt_wr_emod v, mark_wr v, fun hmark => ?_⟩,
    fun a s hs => ⟨roundShift a s, rfl, roundShift_nearest a hs⟩, fun v s hs => ?_⟩
  · have hin := mt (mark_wr v).2 (by simp [hmark])
    exact (wr_of_s32 (by omega) (by omega)).2
  · have hs1 : 1 ≤ s := by omega
    rw [toInt_rshr v hs1]
    exact roundShift_nearest v.toInt hs1

/-- Settles O50, by evaluating the tables. -/
theorem twiddleTablesPassTheirChecks : Obligations.TwiddleTablesPassTheirChecks := by
  have hsym : ∀ j, j ≤ 128 → tws j = twc (128 - j) := by decide +kernel
  have hmirror : ∀ j, j ≤ 127 → 1 ≤ j → twc (256 - j) = -twc j ∧ tws (256 - j) = tws j := by decide +kernel
  have hmodulus : ∀ j, j < 256 →
      2 ^ 60 - 1330550407 ≤ twc j ^ 2 + tws j ^ 2 ∧ twc j ^ 2 + tws j ^ 2 ≤ 2 ^ 60 + 1130861349 := by decide +kernel
  exact ⟨hsym, fun j hlo hhi => hmirror j hhi hlo, by decide +kernel, by decide +kernel, by decide +kernel,
    by decide +kernel, by decide +kernel, by decide +kernel, hmodulus⟩

end Sys2Proof.Machine

/-! The tables against cosine and sine (R126). The powers of one turn by `π / 256`, rounded to 64 fraction bits, follow
the exact powers within a few units, which is far less than the distance of an entry from a tie. -/

namespace Sys2Proof.Machine

open Complex

/-- The first eight terms of the exponential series at `t * I`. -/
noncomputable def expSeries (t : ℝ) : ℂ :=
  ⟨1 - t ^ 2 / 2 + t ^ 4 / 24 - t ^ 6 / 720, t - t ^ 3 / 6 + t ^ 5 / 120 - t ^ 7 / 5040⟩

/-- The rest of the series is small of order 8. -/
theorem norm_exp_mul_I_sub_expSeries_le (t : ℝ) (ht : |t| ≤ 1) :
    ‖exp (t * I) - expSeries t‖ ≤ |t| ^ 8 / 35840 := by
  have hnorm : ‖(t * I : ℂ)‖ = |t| := by simp
  have hbound := Complex.exp_bound (x := t * I) (n := 8) (by rw [hnorm]; exact ht) (by norm_num)
  have hsum : ∑ m ∈ Finset.range 8, (t * I : ℂ) ^ m / m.factorial = expSeries t := by
    have h5 : I ^ 5 = I := by rw [pow_succ, I_pow_four, one_mul]
    have h6 : I ^ 6 = -1 := by rw [pow_succ, h5, I_mul_I]
    have h7 : I ^ 7 = -I := by rw [pow_succ, h6, neg_one_mul]
    rw [expSeries, mk_eq_add_mul_I]
    simp only [Finset.sum_range_succ, Finset.sum_range_zero, mul_pow, I_sq, I_pow_three, I_pow_four, h5, h6, h7,
      Nat.factorial]
    push_cast
    ring
  rw [hsum, hnorm] at hbound
  calc _ ≤ _ := hbound
    _ = |t| ^ 8 / 35840 := by norm_num [Nat.factorial]; ring

/-- `cos (π / 256)` with 64 fraction bits. -/
def turnCos : Int := 18445355067807029948

/-- `sin (π / 256)` with 64 fraction bits. -/
def turnSin : Int := 226369926147403917

/-- The turn by `π / 256`, the angle from one table entry to the next (R126). -/
noncomputable def turn : ℂ := exp ((Real.pi / 256 : ℝ) * I)

theorem turn_pow (j : Nat) : turn ^ j =
    ⟨Real.cos (2 * Real.pi * j / 512), Real.sin (2 * Real.pi * j / 512)⟩ := by
  have hangle : (j : ℂ) * ((Real.pi / 256 : ℝ) * I) = ((2 * Real.pi * j / 512 : ℝ) : ℂ) * I := by push_cast; ring
  rw [turn, ← exp_nat_mul, hangle, exp_mul_I, ← ofReal_cos, ← ofReal_sin, mk_eq_add_mul_I]

theorem norm_turn : ‖turn‖ = 1 := norm_exp_ofReal_mul_I _

/-- Turns by two angles are no further apart than the angles. -/
theorem norm_exp_mul_I_sub_le (x y : ℝ) : ‖exp (x * I) - exp (y * I)‖ ≤ |x - y| := by
  have hfactor : exp (x * I) - exp (y * I) = exp (y * I) * (exp (I * (x - y : ℝ)) - 1) := by
    rw [mul_sub, ← exp_add, mul_one]
    congr 2
    push_cast
    ring
  rw [hfactor, norm_mul, norm_exp_ofReal_mul_I, one_mul]
  exact Real.norm_exp_I_mul_ofReal_sub_one_le

/-- The turn by `π / 256`, from 20 decimals of `π` and eight terms of the series. -/
noncomputable def turnSeries : ℂ := expSeries (3.14159265358979323846 / 256)

theorem norm_turn_sub_turnSeries_le : ‖turn - turnSeries‖ ≤ 1 / 2 ^ 64 := by
  set t : ℝ := 3.14159265358979323846 / 256 with ht
  have hpi : ‖turn - exp (t * I)‖ ≤ 1 / 2 ^ 65 := by
    refine (norm_exp_mul_I_sub_le _ _).trans (abs_le.2 ?_)
    constructor <;> linarith [Real.pi_gt_d20, Real.pi_lt_d20]
  have htaylor : ‖exp (t * I) - turnSeries‖ ≤ 1 / 2 ^ 65 :=
    (norm_exp_mul_I_sub_expSeries_le t (by norm_num [ht])).trans (by norm_num [ht])
  calc ‖turn - turnSeries‖ ≤ ‖turn - exp (t * I)‖ + ‖exp (t * I) - turnSeries‖ :=
        norm_sub_le_norm_sub_add_norm_sub ..
    _ ≤ 1 / 2 ^ 65 + 1 / 2 ^ 65 := add_le_add hpi htaylor
    _ = 1 / 2 ^ 64 := by norm_num

/-- One with 64 fraction bits. -/
noncomputable def scale : ℂ := ((2 ^ 64 : ℝ) : ℂ)

theorem scale_mul_re (z : ℂ) : (scale * z).re = 2 ^ 64 * z.re := re_ofReal_mul ..

theorem scale_mul_im (z : ℂ) : (scale * z).im = 2 ^ 64 * z.im := im_ofReal_mul ..

theorem norm_scale : ‖scale‖ = 2 ^ 64 := (norm_real _).trans (Real.norm_of_nonneg (by positivity))

theorem scale_ne_zero : scale ≠ 0 := norm_ne_zero_iff.1 (by rw [norm_scale]; positivity)

/-- The turn with 64 fraction bits. -/
noncomputable def scaledTurn : ℂ := ⟨turnCos, turnSin⟩

theorem norm_turnSeries_sub_le : ‖scale * turnSeries - scaledTurn‖ ≤ 2 := by
  refine (norm_le_abs_re_add_abs_im _).trans ?_
  have hre : |(scale * turnSeries - scaledTurn).re| ≤ 1 := by
    rw [sub_re, scale_mul_re]
    norm_num [turnSeries, expSeries, scaledTurn, turnCos, abs_le]
  have him : |(scale * turnSeries - scaledTurn).im| ≤ 1 := by
    rw [sub_im, scale_mul_im]
    norm_num [turnSeries, expSeries, scaledTurn, turnSin, abs_le]
  linarith

/-- `turnCos` and `turnSin` are within 3 units of the turn. -/
theorem norm_turn_sub_le : ‖scale * turn - scaledTurn‖ ≤ 3 := by
  have hscale : ‖scale * turn - scale * turnSeries‖ ≤ 1 := by
    rw [← mul_sub, norm_mul, norm_scale]
    linarith [norm_turn_sub_turnSeries_le]
  linarith [norm_sub_le_norm_sub_add_norm_sub (scale * turn) (scale * turnSeries) scaledTurn,
    norm_turnSeries_sub_le]

/-- The powers of the turn as pairs of integers, each rounded to 64 fraction bits from the one before. -/
def turns : Nat → Int × Int
  | 0 => (2 ^ 64, 0)
  | j + 1 =>
    let z := turns j
    (roundShift (z.1 * turnCos - z.2 * turnSin) 64, roundShift (z.1 * turnSin + z.2 * turnCos) 64)

/-- The pair `turns j` as a complex number. -/
noncomputable def turnsPoint (j : Nat) : ℂ := ⟨(turns j).1, (turns j).2⟩

/-- One step of `turns` multiplies by the scaled turn and rounds each component once. -/
theorem norm_turnsPoint_succ_sub_le (j : Nat) :
    ‖turnsPoint j * scaledTurn / scale - turnsPoint (j + 1)‖ ≤ 1 := by
  refine (norm_le_abs_re_add_abs_im _).trans ?_
  have hre := abs_roundShift_sub_le ((turns j).1 * turnCos - (turns j).2 * turnSin) (s := 64) (by decide)
  have him := abs_roundShift_sub_le ((turns j).1 * turnSin + (turns j).2 * turnCos) (s := 64) (by decide)
  rw [abs_sub_comm] at hre him
  push_cast at hre him
  rw [scale, sub_re, sub_im, div_ofReal_re, div_ofReal_im, mul_re, mul_im]
  exact (add_le_add hre him).trans (by norm_num)

/-- `turns` stays within 7 units a step of the exact powers of the turn. -/
theorem norm_turn_pow_sub_le (j : Nat) (hj : j ≤ 256) : ‖scale * turn ^ j - turnsPoint j‖ ≤ 7 * j := by
  induction j with
  | zero =>
    have hstart : scale * turn ^ 0 = turnsPoint 0 := by
      rw [pow_zero, mul_one]
      apply Complex.ext <;> norm_num [scale, turnsPoint, turns]
    rw [hstart, sub_self, norm_zero]
    positivity
  | succ j ih =>
    have hih := ih (by omega)
    have hscale := scale_ne_zero
    have hsize : ‖turnsPoint j‖ ≤ 2 * 2 ^ 64 := by
      have hj' : (j : ℝ) ≤ 256 := mod_cast (by omega : j ≤ 256)
      have hpow : ‖scale * turn ^ j‖ = 2 ^ 64 := by rw [norm_mul, norm_pow, norm_turn, one_pow, mul_one, norm_scale]
      have htriangle := norm_sub_norm_le (turnsPoint j) (scale * turn ^ j)
      rw [norm_sub_rev, hpow] at htriangle
      linarith
    have hkept : ‖(scale * turn ^ j - turnsPoint j) * turn‖ ≤ 7 * j := by rwa [norm_mul, norm_turn, mul_one]
    have hturn : ‖turnsPoint j / scale * (scale * turn - scaledTurn)‖ ≤ 2 * 3 := by
      rw [norm_mul, norm_div, norm_scale]
      exact mul_le_mul ((div_le_iff₀ (by positivity)).2 hsize) norm_turn_sub_le (norm_nonneg _) (by norm_num)
    have hsplit : scale * turn ^ (j + 1) - turnsPoint (j + 1) =
        (scale * turn ^ j - turnsPoint j) * turn + turnsPoint j / scale * (scale * turn - scaledTurn) +
          (turnsPoint j * scaledTurn / scale - turnsPoint (j + 1)) := by
      field_simp
      ring
    calc ‖scale * turn ^ (j + 1) - turnsPoint (j + 1)‖
        ≤ 7 * j + 2 * 3 + 1 := by
          rw [hsplit]
          exact norm_add₃_le.trans (add_le_add_three hkept hturn (norm_turnsPoint_succ_sub_le j))
      _ = 7 * (j + 1 : Nat) := by push_cast; ring

/-- The tables are within 0.4861 of the scaled-down `turns`, with the error of `turns` to spare. -/
theorem table_sub_turns_le : ∀ j : Nat, j < 256 →
    10000 * (|twc j * 2 ^ 34 - (turns j).1| + 7 * (j : Int)) ≤ 4861 * 2 ^ 34 ∧
    10000 * (|tws j * 2 ^ 34 - (turns j).2| + 7 * (j : Int)) ≤ 4861 * 2 ^ 34 := by decide +kernel

/-- An entry near a component of `turns`, which is near the exact component, is near the exact one. -/
theorem abs_entry_sub_le {e c : Int} {j : Nat} {x : ℝ}
    (hentry : 10000 * (|e * 2 ^ 34 - c| + 7 * (j : Int)) ≤ 4861 * 2 ^ 34)
    (hturn : |2 ^ 64 * x - (c : ℝ)| ≤ 7 * (j : ℝ)) : |(e : ℝ) - 2 ^ 30 * x| ≤ 1 / 2 - 0.0139 := by
  have hentry' : 10000 * (|(e : ℝ) * 2 ^ 34 - (c : ℝ)| + 7 * (j : ℝ)) ≤ 4861 * 2 ^ 34 := mod_cast hentry
  have hscale : 2 ^ 34 * |(e : ℝ) - 2 ^ 30 * x| = |(e * 2 ^ 34 - (c : ℝ)) - (2 ^ 64 * x - (c : ℝ))| := by
    rw [← abs_of_pos (show (0 : ℝ) < 2 ^ 34 by positivity), ← abs_mul]
    congr 1
    ring
  have hbound : 2 ^ 34 * |(e : ℝ) - 2 ^ 30 * x| ≤ 2 ^ 34 * (1 / 2 - 0.0139) :=
    calc 2 ^ 34 * |(e : ℝ) - 2 ^ 30 * x|
        ≤ |(e : ℝ) * 2 ^ 34 - (c : ℝ)| + |2 ^ 64 * x - (c : ℝ)| := hscale.trans_le (abs_sub ..)
      _ ≤ |(e : ℝ) * 2 ^ 34 - (c : ℝ)| + 7 * (j : ℝ) := by gcongr
      _ ≤ 4861 * 2 ^ 34 / 10000 := (le_div_iff₀' (by norm_num)).2 hentry'
      _ = 2 ^ 34 * (1 / 2 - 0.0139) := by norm_num
  exact le_of_mul_le_mul_left hbound (by positivity)

/-- Settles O51. -/
theorem twiddleEntriesAreNearestIntegers : Obligations.TwiddleEntriesAreNearestIntegers := by
  intro j hj
  obtain ⟨hcos, hsin⟩ := table_sub_turns_le j hj
  have hnear := norm_turn_pow_sub_le j hj.le
  rw [turn_pow] at hnear
  have hre := (abs_re_le_norm _).trans hnear
  have him := (abs_im_le_norm _).trans hnear
  rw [sub_re, scale_mul_re] at hre
  rw [sub_im, scale_mul_im] at him
  exact ⟨abs_entry_sub_le hcos hre, abs_entry_sub_le hsin him⟩

end Sys2Proof.Machine

/-! Rotations as complex products. A pair of words is a complex number; `ROT` multiplies it by the conjugate of a table
entry, whose modulus is 1 but for `1.2 * 10^-9` (R128), and rounds each component once (R132). -/

namespace Sys2Proof.Machine

open Complex Sys2Proof.Stating

/-- Two words as one complex number (R132). -/
noncomputable def point (a b : Word) : ℂ := ⟨real a, real b⟩

/-- The conjugate of entry `j` of the tables, as a complex number: the rotation of `ROT` (R132). -/
noncomputable def twiddle (j : Nat) : ℂ := ⟨twc j / 2 ^ 30, -(tws j / 2 ^ 30)⟩

theorem twiddle_of_le {j : Nat} (hj : 256 ≤ j) : twiddle j = 0 := by
  have houtside : ∀ rows : List (List Int), rows.length = 32 → tableEntry rows j = 0 := fun rows hlen => by
    have hrow : rows.getD (j / 8) [] = [] := List.getD_eq_default _ _ (by omega)
    rw [tableEntry, hrow, List.getD_nil]
  simp [twiddle, twc, tws, houtside twcRows rfl, houtside twsRows rfl, Complex.ext_iff]

/-- The modulus of a table entry, by the bound of R128 on its square. -/
theorem norm_twiddle_le (j : Nat) : ‖twiddle j‖ ≤ 1 + 1 / 2 ^ 30 := by
  by_cases hj : j < 256
  · obtain ⟨-, -, -, -, -, -, -, -, hmodulus⟩ := twiddleTablesPassTheirChecks
    have hsq : (twc j : ℝ) ^ 2 + tws j ^ 2 ≤ 2 ^ 60 + 1130861349 := mod_cast (hmodulus j hj).2
    rw [← abs_of_nonneg (norm_nonneg (twiddle j))]
    refine abs_le_of_sq_le_sq ?_ (by positivity)
    rw [Complex.sq_norm, normSq_apply]
    calc (twiddle j).re * (twiddle j).re + (twiddle j).im * (twiddle j).im
        = (twc j ^ 2 + tws j ^ 2) / 2 ^ 60 := by simp only [twiddle]; ring
      _ ≤ (2 ^ 60 + 1130861349) / 2 ^ 60 := by gcongr
      _ ≤ (1 + 1 / 2 ^ 30) ^ 2 := by norm_num
  · rw [twiddle_of_le (by omega), norm_zero]
    positivity

theorem point_mul_twiddle (a b : Word) (j : Nat) : point a b * twiddle j =
    ⟨(a.toInt * twc j + b.toInt * tws j : Int) / 2 ^ 30, (b.toInt * twc j - a.toInt * tws j : Int) / 2 ^ 30⟩ := by
  apply Complex.ext
  · simp only [point, twiddle, real, mul_re]; push_cast; ring
  · simp only [point, twiddle, real, mul_im]; push_cast; ring

/-- An operand of modulus at most `3 * 2^29` is multiplied by an entry to less than 2 more than its modulus. -/
theorem norm_mul_twiddle_le {z : ℂ} (hz : ‖z‖ ≤ 3 * 2 ^ 29) (j : Nat) : ‖z * twiddle j‖ ≤ ‖z‖ + 2 := by
  calc ‖z * twiddle j‖ = ‖z‖ * ‖twiddle j‖ := norm_mul ..
    _ ≤ ‖z‖ * (1 + 1 / 2 ^ 30) := by gcongr; exact norm_twiddle_le j
    _ ≤ ‖z‖ + 2 := by linarith

/-- `WR` of a value below `2^31` in magnitude is exact. -/
theorem wr_of_abs_lt {v : Int} (h : |(v : ℝ)| < 2 ^ 31) : (wr v).mark = false ∧ real (wr v).val = v := by
  obtain ⟨hlo, hhi⟩ := abs_lt.1 h
  have hlo' : -(2 ^ 31) < v := mod_cast hlo
  have hhi' : v < 2 ^ 31 := mod_cast hhi
  obtain ⟨hmark, hval⟩ := wr_of_s32 (v := v) (by omega) (by omega)
  exact ⟨hmark, congrArg _ hval⟩

/-- `RND` of an accumulator of magnitude at most `3 * 2^29 + 2`, read with 30 fraction bits, sets no mark and is within
1/2 of it (R122). -/
theorem rnd_of_abs_le {a : Int} (h : |(a : ℝ) / 2 ^ 30| ≤ 3 * 2 ^ 29 + 2) :
    (rnd a coefBits).mark = false ∧ |real (rnd a coefBits).val - a / 2 ^ 30| ≤ 1 / 2 := by
  have hround := abs_roundShift_sub_le a (s := coefBits) (by decide)
  have hsmall : |(roundShift a coefBits : ℝ)| < 2 ^ 31 := by
    have htriangle := abs_sub_abs_le_abs_sub (roundShift a coefBits : ℝ) (a / 2 ^ coefBits)
    simp only [coefBits] at htriangle hround ⊢
    linarith
  obtain ⟨hmark, hval⟩ := wr_of_abs_lt hsmall
  exact ⟨hmark, by rw [rnd, hval]; exact hround⟩

section

variable {a b : Word} (h : ‖point a b‖ ≤ 3 * 2 ^ 29) (j : Nat)

include h

/-- The exact components of a rotation fit the accumulator of `rnd_of_abs_le`. -/
theorem abs_rotation_le :
    |((a.toInt * twc j + b.toInt * tws j : Int) : ℝ) / 2 ^ 30| ≤ 3 * 2 ^ 29 + 2 ∧
    |((b.toInt * twc j - a.toInt * tws j : Int) : ℝ) / 2 ^ 30| ≤ 3 * 2 ^ 29 + 2 := by
  have hnorm : ‖point a b * twiddle j‖ ≤ 3 * 2 ^ 29 + 2 := by linarith [norm_mul_twiddle_le h j]
  have hre := (abs_re_le_norm _).trans hnorm
  have him := (abs_im_le_norm _).trans hnorm
  rw [point_mul_twiddle] at hre him
  exact ⟨hre, him⟩

/-- `ROT` of a pair in range sets no mark (R132). -/
theorem mark_rot : (rotRe a b j).mark = false ∧ (rotIm a b j).mark = false :=
  ⟨(rnd_of_abs_le (abs_rotation_le h j).1).1, (rnd_of_abs_le (abs_rotation_le h j).2).1⟩

/-- `ROT` of a pair in range is the exact product but for one rounding of each component (R132). -/
theorem norm_rot_sub_le : ‖point (rotRe a b j).val (rotIm a b j).val - point a b * twiddle j‖ ≤ 1 := by
  obtain ⟨hre, him⟩ := abs_rotation_le h j
  rw [point_mul_twiddle]
  refine (norm_le_abs_re_add_abs_im _).trans ?_
  exact (add_le_add (rnd_of_abs_le hre).2 (rnd_of_abs_le him).2).trans (by norm_num)

/-- `ROT` adds at most 3 to the modulus of a pair in range (R128, R133). -/
theorem norm_rot_le : ‖point (rotRe a b j).val (rotIm a b j).val‖ ≤ ‖point a b‖ + 3 := by
  have htriangle := norm_sub_norm_le (point (rotRe a b j).val (rotIm a b j).val) (point a b * twiddle j)
  linarith [norm_rot_sub_le h j, norm_mul_twiddle_le h j]

end

end Sys2Proof.Machine

/-! Headroom of the core (R133): a butterfly at most doubles the modulus of the values it reads, but for the rounding of
its rotation, and sets no mark while they stay in range. -/

namespace Sys2Proof.Machine

open Complex Sys2Proof.Stating

/-- Two exact integers whose complex number is in range go through `WR` exactly. -/
theorem wr_pair {v w : Int} (h : ‖(⟨v, w⟩ : ℂ)‖ < 2 ^ 31) :
    (wr v).mark = false ∧ (wr w).mark = false ∧ point (wr v).val (wr w).val = ⟨v, w⟩ := by
  obtain ⟨hvmark, hv⟩ := wr_of_abs_lt ((abs_re_le_norm (⟨v, w⟩ : ℂ)).trans_lt h)
  obtain ⟨hwmark, hw⟩ := wr_of_abs_lt ((abs_im_le_norm (⟨v, w⟩ : ℂ)).trans_lt h)
  exact ⟨hvmark, hwmark, Complex.ext hv hw⟩

/-- Entry `i` of the work arrays as a complex number. -/
noncomputable def Work.pointAt (w : Work) (i : Nat) : ℂ := point (wordAt w.re i) (wordAt w.im i)

/-- Work arrays of one length, whose entries have modulus at most `M`. -/
structure Work.Within (w : Work) (M : ℝ) : Prop where
  lengths : w.re.length = w.im.length
  bound : ∀ i, ‖w.pointAt i‖ ≤ M

theorem wordAt_set (l : List Word) (p i : Nat) (x : Word) :
    wordAt (l.set p x) i = if i = p ∧ p < l.length then x else wordAt l i := by
  simp only [wordAt, List.getD_eq_getElem?_getD, List.getElem?_set, eq_comm (a := p)]
  by_cases hi : i = p
  · subst hi
    by_cases hlt : i < l.length <;> simp [hlt]
  · simp [hi]

/-- The butterfly `(p, q, j)` writes entries `p` and `q` (R152). -/
def touches (b : Nat × Nat × Nat) (i : Nat) : Prop := i = b.1 ∨ i = b.2.1

section

variable {w : Work} {M : ℝ}

/-- The exact sum and difference at the two entries of a butterfly are at most twice as large as the entries. -/
theorem norm_add_sub_le {u v : ℂ} (hu : ‖u‖ ≤ M) (hv : ‖v‖ ≤ M) : ‖u + v‖ ≤ 2 * M ∧ ‖u - v‖ ≤ 2 * M :=
  ⟨by linarith [norm_add_le u v], by linarith [norm_sub_le u v]⟩

/-- A butterfly on two entries in range sets no mark, and what it writes is at most twice as large, and 3 for the
rotation (R133, R152). -/
theorem butterfly_within (hlen : w.re.length = w.im.length) (b : Nat × Nat × Nat)
    (hin : ∀ i, touches b i → ‖w.pointAt i‖ ≤ M) (hM : M ≤ 3 * 2 ^ 28) :
    (butterfly w b.1 b.2.1 b.2.2).mark = w.mark ∧
    ∀ i, (butterfly w b.1 b.2.1 b.2.2).pointAt i = w.pointAt i ∨
      touches b i ∧ ‖(butterfly w b.1 b.2.1 b.2.2).pointAt i‖ ≤ 2 * M + 3 := by
  obtain ⟨p, q, j⟩ := b
  set ar := (wordAt w.re p).toInt with har
  set ai := (wordAt w.im p).toInt with hai
  set br := (wordAt w.re q).toInt with hbr
  set bi := (wordAt w.im q).toInt with hbi
  obtain ⟨hadd, hsub⟩ := norm_add_sub_le (hin p (.inl rfl)) (hin q (.inr rfl))
  have hsum : w.pointAt p + w.pointAt q = ⟨(ar + br : Int), (ai + bi : Int)⟩ := by
    apply Complex.ext <;> push_cast <;> rfl
  have hdiff : w.pointAt p - w.pointAt q = ⟨(ar - br : Int), (ai - bi : Int)⟩ := by
    apply Complex.ext <;> push_cast <;> rfl
  rw [hsum] at hadd
  rw [hdiff] at hsub
  obtain ⟨hsr, hsi, hs⟩ := wr_pair (hadd.trans_lt (by linarith))
  obtain ⟨hdr, hdi, hd⟩ := wr_pair (hsub.trans_lt (by linarith))
  rw [← hs] at hadd
  rw [← hd] at hsub
  obtain ⟨hrr, hri⟩ := mark_rot (hsub.trans (by linarith)) j
  have hrot := norm_rot_le (hsub.trans (by linarith)) j
  refine ⟨?_, fun i => ?_⟩
  · simp only [butterfly, ← har, ← hai, ← hbr, ← hbi, hsr, hsi, hdr, hdi, hrr, hri, Bool.or_false]
  · simp only [butterfly, Work.pointAt, wordAt_set, List.length_set, ← hlen, ← har, ← hai, ← hbr, ← hbi, touches]
    split_ifs with hq hp
    · exact .inr ⟨.inr hq.1, by linarith⟩
    · exact .inr ⟨.inl hp.1, by linarith⟩
    · exact .inl rfl

/-- Butterflies on different entries, each on entries in range. -/
theorem runButterflies_within (hM : M ≤ 3 * 2 ^ 28) (l : List (Nat × Nat × Nat))
    (hl : l.Pairwise fun b c => ∀ i, touches b i → ¬ touches c i) (w : Work)
    (hw : w.Within (2 * M + 3)) (hin : ∀ b ∈ l, ∀ i, touches b i → ‖w.pointAt i‖ ≤ M) :
    (runButterflies l w).mark = w.mark ∧ (runButterflies l w).Within (2 * M + 3) := by
  induction l generalizing w with
  | nil => exact ⟨rfl, hw⟩
  | cons b l ih =>
    obtain ⟨hb, hl⟩ := List.pairwise_cons.1 hl
    obtain ⟨hmark, hout⟩ := butterfly_within hw.lengths b (hin b List.mem_cons_self) hM
    obtain ⟨hre, him⟩ := butterfly_length w b.1 b.2.1 b.2.2
    have hw' : (butterfly w b.1 b.2.1 b.2.2).Within (2 * M + 3) := by
      refine ⟨hre.trans (hw.lengths.trans him.symm), fun i => ?_⟩
      obtain hsame | ⟨-, hle⟩ := hout i
      · exact hsame ▸ hw.bound i
      · exact hle
    have hin' : ∀ c ∈ l, ∀ i, touches c i → ‖(butterfly w b.1 b.2.1 b.2.2).pointAt i‖ ≤ M := by
      intro c hc i hi
      obtain hsame | ⟨ht, -⟩ := hout i
      · exact hsame ▸ hin c (List.mem_cons_of_mem _ hc) i hi
      · exact absurd hi (hb c hc i ht)
    obtain ⟨hrest, hwithin⟩ := ih hl _ hw' hin'
    exact ⟨hrest.trans hmark, hwithin⟩

end

/-- The butterflies of one stage are on different entries (R153). -/
theorem stageButterflies_disjoint (n span : Nat) :
    (stageButterflies n span).Pairwise fun b c => ∀ i, touches b i → ¬ touches c i := by
  refine List.pairwise_flatMap.2 ⟨fun g _ => List.pairwise_map.2 ?_, ?_⟩
  · refine List.pairwise_lt_range.imp_of_mem fun {k k'} hk hk' hlt i hi hi' => ?_
    simp only [List.mem_range, touches] at hk hk' hi hi'
    omega
  · refine List.pairwise_lt_range.imp fun {g g'} hlt b hb c hc i hi hi' => ?_
    obtain ⟨k, hk, rfl⟩ := List.mem_map.1 hb
    obtain ⟨k', hk', rfl⟩ := List.mem_map.1 hc
    have hgroup : 2 * span * (g + 1) ≤ 2 * span * g' := Nat.mul_le_mul_left _ hlt
    simp only [List.mem_range, touches] at hk hk' hi hi'
    rw [Nat.mul_succ] at hgroup
    omega

/-- One stage on work arrays in range (R133, R153). -/
theorem fftStage_within {w : Work} {M : ℝ} (hw : w.Within M) (hM : M ≤ 3 * 2 ^ 28) (n span : Nat) :
    (fftStage n w span).mark = w.mark ∧ (fftStage n w span).Within (2 * M + 3) := by
  have hM0 : 0 ≤ M := (norm_nonneg _).trans (hw.bound 0)
  exact runButterflies_within hM _ (stageButterflies_disjoint n span) w
    ⟨hw.lengths, fun i => by linarith [hw.bound i]⟩ fun b _ i _ => hw.bound i

theorem length_spans (b : Nat) : (spans b).length = b := by
  induction b with
  | zero => rfl
  | succ b ih => rw [spans, List.length_cons, ih]

/-- Stages of any spans: each doubles the bound and adds 3, so the bound plus 3 doubles. -/
theorem foldl_fftStage_within (n : Nat) (l : List Nat) (w : Work) (M : ℝ) (hw : w.Within M)
    (hM : 2 ^ l.length * (M + 3) ≤ 3 * 2 ^ 29) :
    (l.foldl (fftStage n) w).mark = w.mark ∧ (l.foldl (fftStage n) w).Within (3 * 2 ^ 29) := by
  have hM0 : 0 ≤ M := (norm_nonneg _).trans (hw.bound 0)
  induction l generalizing w M with
  | nil =>
    rw [List.length_nil, pow_zero, one_mul] at hM
    exact ⟨rfl, hw.lengths, fun i => (hw.bound i).trans (by linarith)⟩
  | cons span l ih =>
    have hpow : (1 : ℝ) ≤ 2 ^ l.length := one_le_pow₀ (by norm_num)
    rw [List.length_cons, pow_succ] at hM
    obtain ⟨hmark, hstage⟩ := fftStage_within hw (by nlinarith) n span
    obtain ⟨hrest, hwithin⟩ := ih _ (2 * M + 3) hstage (by linarith) (by linarith)
    exact ⟨hrest.trans hmark, hwithin⟩

/-- The core on operands of modulus at most `M`, with `2^b * (M + 3)` in range, sets no mark and stays in range
(R133). -/
theorem fftCore_within {b : Nat} {w : Work} {M : ℝ} (hw : w.Within M) (hM : 2 ^ b * (M + 3) ≤ 3 * 2 ^ 29) :
    (fftCore b w).mark = w.mark ∧ (fftCore b w).Within (3 * 2 ^ 29) :=
  foldl_fftStage_within _ (spans b) w M hw (by rwa [length_spans])

end Sys2Proof.Machine

/-! Headroom of the transform commands (R133): operands of magnitude at most `2^29 / N` keep every step of an engine in
range. -/

namespace Sys2Proof.Machine

open Complex Sys2Proof.Stating

theorem real_zero : real 0#32 = 0 := by simp [real]

/-- `RND` of a small accumulator is below the operands that `WR` can negate. -/
theorem rnd_in_range {a : Int} (h : |(a : ℝ) / 2 ^ 30| ≤ 3 * 2 ^ 29 + 2) :
    (rnd a coefBits).mark = false ∧ |real (rnd a coefBits).val| ≤ 3 * 2 ^ 29 + 3 := by
  obtain ⟨hmark, hnear⟩ := rnd_of_abs_le h
  have htriangle := (abs_sub_abs_le_abs_sub (real (rnd a coefBits).val) (a / 2 ^ 30)).trans hnear
  exact ⟨hmark, by linarith⟩

theorem norm_point_zero (a : Word) : ‖point a 0#32‖ = |real a| := by
  have hreal : point a 0#32 = ((real a : ℝ) : ℂ) := Complex.ext rfl real_zero
  rw [hreal, norm_real, Real.norm_eq_abs]

theorem norm_point_le (a b : Word) : ‖point a b‖ ≤ |real a| + |real b| := norm_le_abs_re_add_abs_im (point a b)

theorem wordAt_replicate_zero (n i : Nat) : wordAt (List.replicate n 0#32) i = 0#32 := by
  rw [wordAt, List.getD_eq_getElem?_getD, List.getElem?_replicate]
  split_ifs <;> rfl

/-- A list of words none of which is marked is not marked. -/
theorem markedList_mark_eq_false {n : Nat} {f : Nat → Marked Word} (h : ∀ i, (f i).mark = false) :
    (markedList n f).mark = false := by
  refine Bool.eq_false_of_not_eq_true fun hmark => ?_
  obtain ⟨i, -, hi⟩ := (mark_markedList f n).1 hmark
  exact absurd hi (by simp [h])

/-- Every word of a list has magnitude at most `B`. -/
def AllWithin (B : ℝ) (x : List Word) : Prop := ∀ i, |real (wordAt x i)| ≤ B

theorem allWithin_mapRange {B : ℝ} {n : Nat} {f : Nat → Word} (hf : ∀ i, |real (f i)| ≤ B) :
    AllWithin B ((List.range n).map f) := by
  intro i
  rw [wordAt_mapRange]
  split_ifs
  · exact hf i
  · rw [real_zero, abs_zero]
    exact (abs_nonneg _).trans (hf 0)

section

variable {B : ℝ} {x : List Word} (hx : AllWithin B x)

include hx

theorem AllWithin.nonneg : 0 ≤ B := (abs_nonneg _).trans (hx 0)

/-- Real operands as work arrays. -/
theorem AllWithin.work {n : Nat} (hlen : x.length = n) :
    ({ re := x, im := List.replicate n 0#32, mark := false } : Work).Within B :=
  ⟨hlen.trans (List.length_replicate ..).symm, fun i => by
    rw [Work.pointAt, wordAt_replicate_zero, norm_point_zero]
    exact hx i⟩

/-- The sign alternation negates in range, so it sets no mark and leaves the magnitudes (R174, R175). -/
theorem AllWithin.negateOdd (n : Nat) (hB : B < 2 ^ 31) :
    (negateOdd n x).mark = false ∧ AllWithin B (negateOdd n x).val := by
  have hneg : ∀ i, (wr (-(wordAt x i).toInt)).mark = false ∧
      real (wr (-(wordAt x i).toInt)).val = -real (wordAt x i) := fun i => by
    have hlt : |((-(wordAt x i).toInt : Int) : ℝ)| < 2 ^ 31 := by
      rw [Int.cast_neg, abs_neg]
      exact (hx i).trans_lt hB
    obtain ⟨hmark, hval⟩ := wr_of_abs_lt hlt
    exact ⟨hmark, hval.trans (Int.cast_neg _)⟩
  refine ⟨markedList_mark_eq_false fun i => ?_, fun i => ?_⟩
  · split_ifs
    · rfl
    · exact (hneg i).1
  · rw [Machine.negateOdd, wordAt_markedList]
    split_ifs
    · exact hx i
    · rw [(hneg i).2, abs_neg]
      exact hx i
    · simpa [real_zero] using hx.nonneg

/-- The pre-modulation rotates in range (R172, R173). -/
theorem AllWithin.preRotate (n : Nat) (idx : Nat → Nat) (hB : B ≤ 3 * 2 ^ 29) :
    (preRotate n x idx).mark = false ∧ (preRotate n x idx).Within (B + 3) := by
  have hz : ∀ i, ‖point (wordAt x i) 0#32‖ ≤ B := fun i => (norm_point_zero _).trans_le (hx i)
  have hmark := fun i => mark_rot ((hz i).trans hB) (idx i)
  refine ⟨?_, ?_, fun i => ?_⟩
  · rw [Machine.preRotate, Bool.or_eq_false_iff]
    exact ⟨markedList_mark_eq_false fun i => (hmark i).1, markedList_mark_eq_false fun i => (hmark i).2⟩
  · simp [Machine.preRotate]
  · simp only [Machine.preRotate, Work.pointAt, wordAt_markedList]
    split_ifs
    · linarith [norm_rot_le ((hz i).trans hB) (idx i), hz i]
    · rw [norm_point_zero, real_zero, abs_zero]
      linarith [hx.nonneg]

end

/-- The core of `DCT4` after its pre-modulation (R173). -/
def dct4Core (sz : Size) (x : List Word) : Work :=
  fftCore sz.bits (preRotate sz.points x fun i => (2 * i + 1) * (64 / sz.points))

/-- The accumulator of the post-modulation of `DCT4` at bin `m` (R173). -/
def dct4Sum (sz : Size) (w : Work) (m : Nat) : Int :=
  (wordAt w.re (bitrev sz.bits m)).toInt * twc (m * (256 / sz.points))
    + (wordAt w.im (bitrev sz.bits m)).toInt * tws (m * (256 / sz.points))

/-- Output `k` of `DCT4` from the work arrays of its core (R173). -/
def dct4Out (sz : Size) (w : Work) (k : Nat) : Marked Word :=
  if k % 2 = 0 then rnd (dct4Sum sz w (k / 2)) coefBits else rnd (-dct4Sum sz w (sz.points - 1 - k / 2)) coefBits

theorem dct4_eq (sz : Size) (x : List Word) : dct4 sz x =
    { val := (markedList sz.points (dct4Out sz (dct4Core sz x))).val
      mark := (dct4Core sz x).mark || (markedList sz.points (dct4Out sz (dct4Core sz x))).mark } := rfl

/-- The outputs of `DCT4` from a core in range: one rounded component of a rotation, or its negative. -/
theorem dct4Out_of_within {sz : Size} {w : Work} (hw : w.Within (3 * 2 ^ 29)) (k : Nat) :
    (dct4Out sz w k).mark = false ∧ |real (dct4Out sz w k).val| ≤ 3 * 2 ^ 29 + 3 := by
  have hsum : ∀ m, |(dct4Sum sz w m : ℝ) / 2 ^ 30| ≤ 3 * 2 ^ 29 + 2 := fun m => (abs_rotation_le (hw.bound _) _).1
  rw [dct4Out]
  split_ifs
  · exact rnd_in_range (hsum _)
  · exact rnd_in_range (by rw [Int.cast_neg, neg_div, abs_neg]; exact hsum _)

/-- The largest operand for which R133 promises that a transform of the size stays in range. -/
noncomputable def headroom (sz : Size) : ℝ := 2 ^ 29 / sz.points

theorem headroom_nonneg (sz : Size) : 0 ≤ headroom sz := by
  rw [headroom]
  positivity

theorem headroom_le (sz : Size) : headroom sz ≤ 2 ^ 25 := by
  cases sz <;> norm_num [headroom, Size.points]

/-- Work arrays of twice the headroom, and 3 for a rotation before, stay in range in the core. -/
theorem fftCore_within_of_headroom {sz : Size} {w : Work} {M : ℝ} (hw : w.Within M) (hM : M ≤ 2 * headroom sz + 3) :
    (fftCore sz.bits w).mark = w.mark ∧ (fftCore sz.bits w).Within (3 * 2 ^ 29) := by
  refine fftCore_within hw ?_
  calc (2 : ℝ) ^ sz.bits * (M + 3) ≤ 2 ^ sz.bits * (2 * headroom sz + 6) :=
        mul_le_mul_of_nonneg_left (by linarith) (by positivity)
    _ ≤ 3 * 2 ^ 29 := by cases sz <;> norm_num [headroom, Size.points, Size.bits]

section

variable {sz : Size} {x : List Word} (hx : AllWithin (headroom sz) x)

include hx

theorem fft_unmarked {y : List Word} (hy : AllWithin (headroom sz) y) (hlen : x.length = y.length) :
    (fft sz x y).mark = false :=
  (fftCore_within_of_headroom (w := { re := x, im := y, mark := false }) (M := 2 * headroom sz)
    ⟨hlen, fun i => (norm_point_le _ _).trans (by linarith [hx i, hy i])⟩ (by linarith)).1

theorem dct2_unmarked : (dct2 sz x).mark = false := by
  have hperm : AllWithin (headroom sz) ((List.range sz.points).map fun i =>
      if i < sz.points / 2 then wordAt x (2 * i) else wordAt x (2 * (sz.points - 1 - i) + 1)) :=
    allWithin_mapRange fun i => by split_ifs <;> exact hx _
  obtain ⟨hcore, hw⟩ := fftCore_within_of_headroom (hperm.work (n := sz.points) (by simp))
    (by linarith [headroom_nonneg sz])
  exact Bool.or_eq_false_iff.2 ⟨hcore, markedList_mark_eq_false fun k => (mark_rot (hw.bound _) _).1⟩

theorem dct3_unmarked : (dct3 sz x).mark = false := by
  obtain ⟨hmark, hpre⟩ := hx.preRotate sz.points (fun k => k * (128 / sz.points)) (by linarith [headroom_le sz])
  exact (fftCore_within_of_headroom hpre (by linarith [headroom_nonneg sz])).1.trans hmark

/-- The results of `DCT4` are in range too, as `DST4` needs. -/
theorem dct4_unmarked : (dct4 sz x).mark = false ∧ AllWithin (3 * 2 ^ 29 + 3) (dct4 sz x).val := by
  obtain ⟨hmark, hpre⟩ := hx.preRotate sz.points (fun i => (2 * i + 1) * (64 / sz.points))
    (by linarith [headroom_le sz])
  obtain ⟨hcore, hw⟩ := fftCore_within_of_headroom hpre (by linarith [headroom_nonneg sz])
  have hout := dct4Out_of_within (sz := sz) hw
  rw [dct4_eq]
  refine ⟨Bool.or_eq_false_iff.2 ⟨hcore.trans hmark, markedList_mark_eq_false fun k => (hout k).1⟩, ?_⟩
  exact allWithin_mapRange fun k => (hout k).2

theorem dst2_unmarked : (dst2 sz x).mark = false := by
  obtain ⟨hmark, hneg⟩ := hx.negateOdd sz.points (by linarith [headroom_le sz])
  exact Bool.or_eq_false_iff.2 ⟨hmark, dct2_unmarked hneg⟩

theorem dst4_unmarked : (dst4 sz x).mark = false := by
  obtain ⟨hmark, hval⟩ := dct4_unmarked (allWithin_mapRange (n := sz.points) fun i => hx (sz.points - 1 - i))
  exact Bool.or_eq_false_iff.2 ⟨hmark, (hval.negateOdd sz.points (by norm_num)).1⟩

end

/-- The operands that R133 allows, as the engines read them. -/
theorem operand_allWithin {sz : Size} {v : Vector Word 64}
    (hv : ∀ k, k < sz.points → atMost (2 ^ 29 / sz.points) (entry v k)) :
    AllWithin (headroom sz) (operand v sz.points) := by
  have hbound : ((2 ^ 29 / sz.points : Int) : ℝ) = headroom sz := by
    cases sz <;> norm_num [headroom, Size.points]
  intro i
  rw [wordAt_operand]
  split_ifs with hi
  · obtain ⟨hlo, hhi⟩ := hv i hi
    rw [← hbound, abs_le, ← Int.cast_neg]
    exact ⟨Int.cast_le.2 hlo, Int.cast_le.2 hhi⟩
  · rw [real_zero, abs_zero]
    exact headroom_nonneg sz

/-- A transform command of a legal size whose engine sets no mark leaves `OVF` (R28, R124). -/
theorem onSize_runEngine_ovf {s : State} {i : Instr} {n : BitVec 8} {sz : Size} (hn : n.toNat = sz.points)
    {engine : Size → List Word → Marked (List Word)} (hmark : (engine sz (operand s.xre sz.points)).mark = false) :
    ∃ t, onSize i n s (runEngine engine s) = .next t ∧ t.ovf = s.ovf :=
  ⟨_, onSize_of_points hn, by simp [runEngine, hmark]⟩

/-- Settles O52: in every engine each step stays in range, so none sets the mark. -/
theorem boundedOperandsNeverOverflow : Obligations.BoundedOperandsNeverOverflow := by
  intro s n sz hn hre i hi him
  have hx := operand_allWithin hre
  simp only [transforms, List.mem_cons, List.not_mem_nil, or_false] at hi
  obtain rfl | rfl | rfl | rfl | rfl | rfl := hi
  · have hmark := fft_unmarked hx (operand_allWithin (him rfl)) (by simp)
    exact ⟨_, onSize_of_points hn, by simp [hmark]⟩
  · exact onSize_runEngine_ovf hn (dct2_unmarked hx)
  · exact onSize_runEngine_ovf hn (dct3_unmarked hx)
  · exact onSize_runEngine_ovf hn (dct4_unmarked hx).1
  · exact onSize_runEngine_ovf hn (dst2_unmarked hx)
  · exact onSize_runEngine_ovf hn (dst4_unmarked hx)

end Sys2Proof.Machine

/-! The rules of one butterfly (R152) and of a list of them (R153): what is written, what is left, and when the mark is
set. -/

namespace Sys2Proof.Machine

open Sys2Proof.Stating

/-- A butterfly leaves every entry but its two (R152). -/
theorem wordAt_butterfly_of_not_touches (w : Work) {b : Nat × Nat × Nat} {i : Nat} (h : ¬ touches b i) :
    wordAt (butterfly w b.1 b.2.1 b.2.2).re i = wordAt w.re i ∧
    wordAt (butterfly w b.1 b.2.1 b.2.2).im i = wordAt w.im i := by
  obtain ⟨hp, hq⟩ := not_or.1 h
  simp [butterfly, wordAt_set, hp, hq]

/-- `WR` sets the mark exactly where its value leaves `s32` (R121). -/
theorem mark_wr_iff_leaves (v : Int) : (wr v).mark = true ↔ leaves v := mark_wr v

/-- `RND` by the fraction bits of a coefficient sets the mark exactly where the rounded accumulator leaves `s32`
(R122). -/
theorem mark_rnd_iff_roundsOut (a : Int) : (rnd a coefBits).mark = true ↔ roundsOut a := mark_rnd a

/-- A butterfly sets the mark exactly if one of its six values is outside `s32` (R124, R152). -/
theorem butterfly_mark (w : Work) (b : Nat × Nat × Nat) :
    (butterfly w b.1 b.2.1 b.2.2).mark = true ↔ w.mark = true ∨ butterflyLeaves w b := by
  simp only [butterfly, Bool.or_eq_true, mark_wr_iff_leaves, rotRe, rotIm, mark_rnd_iff_roundsOut, or_assoc]
  rfl

/-- Settles O57: the two entries are written after all four words are read. -/
theorem butterflyFollowsItsDatapath : Obligations.ButterflyFollowsItsDatapath := by
  intro w p q j hpq hre him
  have hne : p ≠ q := hpq.ne
  have hpre : p < w.re.length := hpq.trans hre
  have hpim : p < w.im.length := hpq.trans him
  obtain ⟨hlre, hlim⟩ := butterfly_length w p q j
  refine ⟨?_, ?_, ?_, ?_, fun i hp hq => ?_, hlre, hlim, butterfly_mark w (p, q, j)⟩
  · simp [butterfly, wordAt_set, hne, hpre]
  · simp [butterfly, wordAt_set, hne, hpim]
  · simp [butterfly, wordAt_set, hre, rotRe, coefBits]
  · simp [butterfly, wordAt_set, him, rotIm, coefBits]
  · exact wordAt_butterfly_of_not_touches w (b := (p, q, j)) (not_or.2 ⟨hp, hq⟩)

@[simp] theorem runButterflies_nil (w : Work) : runButterflies [] w = w := rfl

@[simp] theorem runButterflies_cons (b : Nat × Nat × Nat) (l : List (Nat × Nat × Nat)) (w : Work) :
    runButterflies (b :: l) w = runButterflies l (butterfly w b.1 b.2.1 b.2.2) := rfl

theorem runButterflies_append (l l' : List (Nat × Nat × Nat)) (w : Work) :
    runButterflies (l ++ l') w = runButterflies l' (runButterflies l w) := List.foldl_append ..

/-- A stage is the run of its butterflies. -/
theorem fftStage_eq_runButterflies (n : Nat) (w : Work) (span : Nat) :
    fftStage n w span = runButterflies (stageButterflies n span) w := rfl

/-- The work arrays with an earlier mark added: the mark is an "or" of all steps (R124). -/
def Work.orMark (w : Work) (m : Bool) : Work := { w with mark := m || w.mark }

/-- Work arrays are their words and their mark. -/
theorem Work.eq_orMark (w : Work) : w = ({ w with mark := false } : Work).orMark w.mark := by
  simp [Work.orMark]

/-- The words do not depend on the mark, and an earlier mark stays (R124). -/
theorem butterfly_orMark (w : Work) (m : Bool) (p q j : Nat) :
    butterfly (w.orMark m) p q j = (butterfly w p q j).orMark m := by
  simp only [butterfly, Work.orMark, Bool.or_assoc]

theorem runButterflies_orMark (l : List (Nat × Nat × Nat)) (w : Work) (m : Bool) :
    runButterflies l (w.orMark m) = (runButterflies l w).orMark m := by
  induction l generalizing w with
  | nil => rfl
  | cons b l ih => rw [runButterflies_cons, butterfly_orMark, ih, runButterflies_cons]

/-- The mark of a run is set by the first butterfly that leaves `s32`, or was set before (R28, R124). -/
theorem runButterflies_mark (l : List (Nat × Nat × Nat)) (w : Work) :
    (runButterflies l w).mark = true ↔
      w.mark = true ∨ ∃ l₁ x l₂, l = l₁ ++ x :: l₂ ∧ butterflyLeaves (runButterflies l₁ w) x := by
  induction l generalizing w with
  | nil => simp
  | cons b l ih =>
    rw [runButterflies_cons, ih, butterfly_mark, or_assoc]
    refine or_congr_right ⟨?_, ?_⟩
    · rintro (hb | ⟨l₁, x, l₂, rfl, hx⟩)
      · exact ⟨[], b, l, rfl, hb⟩
      · exact ⟨b :: l₁, x, l₂, rfl, hx⟩
    · rintro ⟨l₁, x, l₂, hl, hx⟩
      cases l₁ with
      | nil => obtain ⟨rfl, rfl⟩ := List.cons.inj hl; exact .inl hx
      | cons c l₁ => obtain ⟨rfl, rfl⟩ := List.cons.inj hl; exact .inr ⟨l₁, x, l₂, rfl, hx⟩

end Sys2Proof.Machine

/-! The core as one list of butterflies (R153). -/

namespace Sys2Proof.Machine

open Sys2Proof.Stating

/-- The spans halve from `N/2` down to 1 (R153). -/
theorem spans_eq_map (b : Nat) : spans b = (List.range b).map fun s => 2 ^ (b - 1 - s) := by
  induction b with
  | zero => rfl
  | succ b ih =>
    rw [spans, ih, List.range_succ_eq_map, List.map_cons, List.map_map]
    congr 1
    refine List.map_congr_left fun s _ => ?_
    rw [Function.comp_apply, show b + 1 - 1 - s.succ = b - 1 - s by omega]

/-- A stage of span `2^t` over `2^b` words has `2^(b-1-t)` groups; the stages in turn are R153's loops. -/
theorem coreButterflies_eq_flatMap (b : Nat) : coreButterflies b = (spans b).flatMap (stageButterflies (2 ^ b)) := by
  rw [spans_eq_map, List.flatMap_map, coreButterflies]
  refine List.flatMap_congr fun s hs => ?_
  have hpow : 2 ^ b = 2 * 2 ^ (b - 1 - s) * 2 ^ s := by
    rw [← Nat.pow_succ', ← Nat.pow_add]
    have hlt := List.mem_range.1 hs
    congr 1
    omega
  have hgroups : 2 ^ b / (2 * 2 ^ (b - 1 - s)) = 2 ^ s := Nat.div_eq_of_eq_mul_right (by positivity) hpow
  rw [stageButterflies, hgroups]

theorem fftCore_eq_runButterflies (b : Nat) (w : Work) : fftCore b w = runButterflies (coreButterflies b) w := by
  rw [coreButterflies_eq_flatMap, runButterflies, List.foldl_flatMap]
  rfl

theorem fftCore_orMark (b : Nat) (w : Work) (m : Bool) : fftCore b (w.orMark m) = (fftCore b w).orMark m := by
  simp only [fftCore_eq_runButterflies, runButterflies_orMark]

/-- Settles O58: the stages are the loops of R153, and the words do not depend on the mark. -/
theorem fftCoreRunsItsButterflies : Obligations.FftCoreRunsItsButterflies := by
  intro b w
  have hcore := fftCore_eq_runButterflies b w
  refine ⟨hcore, ?_⟩
  have hmark := runButterflies_mark (coreButterflies b) { w with mark := false }
  rw [w.eq_orMark, fftCore_orMark, fftCore_eq_runButterflies, Work.orMark, Bool.or_eq_true, hmark]
  simp [coreLeaves, Work.orMark]

end Sys2Proof.Machine

/-! Butterflies on different entries (R153): their order does not matter, and each of them reads the words that stood
before all of them. -/

namespace Sys2Proof.Machine

open Sys2Proof.Stating

section

variable {b c : Nat × Nat × Nat} (h : ∀ i, touches b i → ¬ touches c i)

include h

/-- A butterfly on other entries does not change what one applies `WR` and `RND` to. -/
theorem butterflyLeaves_butterfly (w : Work) :
    butterflyLeaves (butterfly w b.1 b.2.1 b.2.2) c ↔ butterflyLeaves w c := by
  obtain ⟨hpre, hpim⟩ := wordAt_butterfly_of_not_touches w fun hp => h c.1 hp (.inl rfl)
  obtain ⟨hqre, hqim⟩ := wordAt_butterfly_of_not_touches w fun hq => h c.2.1 hq (.inr rfl)
  simp only [butterflyLeaves, hpre, hpim, hqre, hqim]

/-- Two butterflies on different entries commute. -/
theorem butterfly_comm (w : Work) :
    butterfly (butterfly w b.1 b.2.1 b.2.2) c.1 c.2.1 c.2.2 =
      butterfly (butterfly w c.1 c.2.1 c.2.2) b.1 b.2.1 b.2.2 := by
  obtain ⟨p, q, j⟩ := b
  obtain ⟨p', q', j'⟩ := c
  obtain ⟨hpp, hpq⟩ := not_or.1 (h p (.inl rfl))
  obtain ⟨hqp, hqq⟩ := not_or.1 (h q (.inr rfl))
  have hset : ∀ (l : List Word) (x y x' y' : Word),
      (((l.set p x).set q y).set p' x').set q' y' = (((l.set p' x').set q' y').set p x).set q y := by
    intro l x y x' y'
    rw [List.set_comm _ _ hqp, List.set_comm _ _ hpp, List.set_comm _ _ hqq, List.set_comm _ _ hpq]
  simp only [butterfly, wordAt_set, hpp, hpq, hqp, hqq, Ne.symm hpp, Ne.symm hpq, Ne.symm hqp, Ne.symm hqq,
    false_and, if_false, hset, Work.mk.injEq, true_and]
  ac_rfl

end

/-- Settles O44: the butterflies of a stage are on different entries, so any two commute. -/
theorem butterfliesOfAStageCommute : Obligations.ButterfliesOfAStageCommute := by
  intro n span w l hl
  have hsymm : Std.Symm fun b c : Nat × Nat × Nat => ∀ i, touches b i → ¬ touches c i :=
    ⟨fun _ _ hbc i hi hi' => hbc i hi' hi⟩
  refine hl.foldl_eq' (fun b hb c hc w => ?_) w
  by_cases hbc : b = c
  · rw [hbc]
  · exact butterfly_comm ((stageButterflies_disjoint n span).forall (hl.subset hb) (hl.subset hc) hbc) w

end Sys2Proof.Machine

/-! Bit reversal (R154). -/

namespace Sys2Proof.Machine

theorem bitrev_lt (b k : Nat) : bitrev b k < 2 ^ b := by
  induction b generalizing k with
  | zero => simp [bitrev]
  | succ b ih =>
    have hlow := ih (k / 2)
    have hbit : k % 2 < 2 := Nat.mod_lt _ (by decide)
    rw [bitrev, Nat.pow_succ]
    nlinarith

/-- Bit `i` of the reversal is bit `b-1-i` of the number: bit 0 goes to the top, and the others are the reversal of the
half. -/
theorem testBit_bitrev {b i : Nat} (k : Nat) (hi : i < b) : (bitrev b k).testBit i = k.testBit (b - 1 - i) := by
  induction b generalizing k i with
  | zero => exact absurd hi (Nat.not_lt_zero i)
  | succ b ih =>
    rw [bitrev, Nat.mul_comm, Nat.testBit_two_pow_mul_add _ (bitrev_lt b _)]
    split_ifs with hlow
    · rw [ih _ hlow, ← Nat.testBit_succ]
      congr 1
      omega
    · obtain rfl : i = b := by omega
      simp

theorem bitrev_bitrev {b k : Nat} (hk : k < 2 ^ b) : bitrev b (bitrev b k) = k := by
  refine Nat.eq_of_testBit_eq fun i => ?_
  by_cases hi : i < b
  · rw [testBit_bitrev _ hi, testBit_bitrev _ (by omega), show b - 1 - (b - 1 - i) = i by omega]
  · have hpow : 2 ^ b ≤ 2 ^ i := Nat.pow_le_pow_right (by decide) (Nat.le_of_not_lt hi)
    rw [Nat.testBit_lt_two_pow ((bitrev_lt b _).trans_le hpow), Nat.testBit_lt_two_pow (hk.trans_le hpow)]

@[simp] theorem bitrev_zero (b : Nat) : bitrev b 0 = 0 := by
  induction b with
  | zero => rfl
  | succ b ih => simp [bitrev, ih]

/-- Only 0 is reversed to 0. -/
theorem bitrev_eq_zero_iff {b k : Nat} (hk : k < 2 ^ b) : bitrev b k = 0 ↔ k = 0 := by
  refine ⟨fun h => ?_, fun h => h ▸ bitrev_zero b⟩
  rw [← bitrev_bitrev hk, h, bitrev_zero]

/-- Settles O45, by the bits of the reversal; the tables are evaluated. -/
theorem bitReversalIsItsOwnInverse : Obligations.BitReversalIsItsOwnInverse :=
  ⟨fun b k hk => ⟨bitrev_lt b k, bitrev_bitrev hk, fun _ hi => testBit_bitrev k hi⟩,
    by decide, by decide, by decide⟩

end Sys2Proof.Machine

/-! The core as two cores of half the size (R155): a stage of a shorter span never joins the two halves. -/

namespace Sys2Proof.Machine

open Sys2Proof.Stating

/-- Two work arrays as one: the words of `lo`, then those of `hi`. -/
def Work.beside (lo hi : Work) : Work :=
  { re := lo.re ++ hi.re, im := lo.im ++ hi.im, mark := lo.mark || hi.mark }

/-- The work arrays have `n` words each. -/
def Work.HasSize (w : Work) (n : Nat) : Prop := w.re.length = n ∧ w.im.length = n

theorem hasSize_runButterflies {w : Work} {n : Nat} (h : w.HasSize n) (l : List (Nat × Nat × Nat)) :
    (runButterflies l w).HasSize n :=
  ⟨(foldl_butterfly_length l w).1.trans h.1, (foldl_butterfly_length l w).2.trans h.2⟩

/-- The butterfly `(p, q, j)` moved up by `n` entries. -/
def shiftButterfly (n : Nat) (b : Nat × Nat × Nat) : Nat × Nat × Nat := (n + b.1, n + b.2.1, b.2.2)

theorem wordAt_append_left {l r : List Word} {i : Nat} (h : i < l.length) : wordAt (l ++ r) i = wordAt l i :=
  List.getD_append _ _ _ _ h

theorem wordAt_append_right {l : List Word} {n : Nat} (h : l.length = n) (r : List Word) (i : Nat) :
    wordAt (l ++ r) (n + i) = wordAt r i := by
  subst h
  rw [wordAt, List.getD_append_right _ _ _ _ (Nat.le_add_right _ _), Nat.add_sub_cancel_left, wordAt]

theorem set_append_add {l : List Word} {n : Nat} (h : l.length = n) (r : List Word) (i : Nat) (x : Word) :
    (l ++ r).set (n + i) x = l ++ r.set i x := by
  subst h
  rw [List.set_append_right _ _ (Nat.le_add_right _ _), Nat.add_sub_cancel_left]

section

variable {n : Nat} {lo hi : Work} (hlo : lo.HasSize n)

include hlo

/-- A butterfly on entries of the lower half. -/
theorem butterfly_beside_left {b : Nat × Nat × Nat} (hb : b.1 < n ∧ b.2.1 < n) :
    butterfly (lo.beside hi) b.1 b.2.1 b.2.2 = (butterfly lo b.1 b.2.1 b.2.2).beside hi := by
  obtain ⟨hre, him⟩ := hlo
  obtain ⟨hp, hq⟩ := hb
  simp only [butterfly, Work.beside, wordAt_append_left, List.set_append_left, List.length_set, hre, him, hp, hq,
    Work.mk.injEq, true_and]
  ac_rfl

/-- A butterfly on entries of the upper half. -/
theorem butterfly_beside_right (b : Nat × Nat × Nat) :
    butterfly (lo.beside hi) (n + b.1) (n + b.2.1) b.2.2 = lo.beside (butterfly hi b.1 b.2.1 b.2.2) := by
  obtain ⟨hre, him⟩ := hlo
  simp only [butterfly, Work.beside, wordAt_append_right hre, wordAt_append_right him, set_append_add hre,
    set_append_add him, Bool.or_assoc]

theorem runButterflies_beside_left (l : List (Nat × Nat × Nat)) (hl : ∀ b ∈ l, b.1 < n ∧ b.2.1 < n) :
    runButterflies l (lo.beside hi) = (runButterflies l lo).beside hi := by
  induction l generalizing lo with
  | nil => rfl
  | cons b l ih =>
    rw [runButterflies_cons, butterfly_beside_left hlo (hl b List.mem_cons_self), runButterflies_cons]
    exact ih (hasSize_runButterflies hlo [b]) fun c hc => hl c (List.mem_cons_of_mem b hc)

theorem runButterflies_beside_right (l : List (Nat × Nat × Nat)) :
    runButterflies (l.map (shiftButterfly n)) (lo.beside hi) = lo.beside (runButterflies l hi) := by
  induction l generalizing hi with
  | nil => rfl
  | cons b l ih =>
    rw [List.map_cons, runButterflies_cons, shiftButterfly, butterfly_beside_right hlo, ih, runButterflies_cons]

end

/-- The butterflies of a stage stay inside the array. -/
theorem stageButterflies_lt {n span : Nat} {b : Nat × Nat × Nat} (hb : b ∈ stageButterflies n span) :
    b.1 < n ∧ b.2.1 < n := by
  simp only [stageButterflies, List.mem_flatMap, List.mem_map, List.mem_range] at hb
  obtain ⟨g, hg, k, hk, rfl⟩ := hb
  have hgroup : 2 * span * (g + 1) ≤ n :=
    (Nat.mul_le_mul_left _ hg).trans (Nat.mul_div_le n (2 * span))
  rw [Nat.mul_succ] at hgroup
  dsimp only
  omega

/-- A stage over `2 n` words, where whole groups fill `n`: the stage over the lower half, then over the upper. -/
theorem stageButterflies_double {n span : Nat} (h : 2 * span ∣ n) :
    stageButterflies (2 * n) span = stageButterflies n span ++ (stageButterflies n span).map (shiftButterfly n) := by
  obtain ⟨G, rfl⟩ := h
  obtain rfl | hpos := Nat.eq_zero_or_pos span
  · simp [stageButterflies]
  have hn : 2 * span * G / (2 * span) = G := Nat.mul_div_cancel_left _ (by omega)
  have h2n : 2 * (2 * span * G) / (2 * span) = G + G := by
    rw [show 2 * (2 * span * G) = 2 * span * (G + G) by ring, Nat.mul_div_cancel_left _ (by omega)]
  rw [stageButterflies, stageButterflies, hn, h2n, List.range_add, List.flatMap_append, List.flatMap_map,
    List.map_flatMap]
  congr 1
  refine List.flatMap_congr fun g _ => ?_
  rw [List.map_map]
  refine List.map_congr_left fun k _ => ?_
  simp only [Function.comp_apply, shiftButterfly, Nat.mul_add, Nat.add_assoc]

/-- A stage whose groups do not cross the middle is the stage on each half. -/
theorem fftStage_beside {n span : Nat} (h : 2 * span ∣ n) {lo hi : Work} (hlo : lo.HasSize n) :
    fftStage (2 * n) (lo.beside hi) span = (fftStage n lo span).beside (fftStage n hi span) := by
  rw [fftStage_eq_runButterflies, stageButterflies_double h, runButterflies_append,
    runButterflies_beside_left hlo _ fun _ => stageButterflies_lt,
    runButterflies_beside_right (hasSize_runButterflies hlo _)]
  rfl

theorem foldl_fftStage_beside {n : Nat} (l : List Nat) (hl : ∀ span ∈ l, 2 * span ∣ n) {lo hi : Work}
    (hlo : lo.HasSize n) :
    l.foldl (fftStage (2 * n)) (lo.beside hi) = (l.foldl (fftStage n) lo).beside (l.foldl (fftStage n) hi) := by
  induction l generalizing lo hi with
  | nil => rfl
  | cons span l ih =>
    simp only [List.foldl_cons, fftStage_beside (hl span List.mem_cons_self) hlo]
    exact ih (fun x hx => hl x (List.mem_cons_of_mem span hx)) (hasSize_runButterflies hlo _)

theorem two_mul_dvd_of_mem_spans {b span : Nat} (h : span ∈ spans b) : 2 * span ∣ 2 ^ b := by
  rw [spans_eq_map] at h
  obtain ⟨s, hs, rfl⟩ := List.mem_map.1 h
  have hlt := List.mem_range.1 hs
  rw [← Nat.pow_succ']
  exact pow_dvd_pow 2 (by omega)

/-- The first `n` entries of work arrays, not marked. -/
def Work.lower (n : Nat) (w : Work) : Work := { re := w.re.take n, im := w.im.take n, mark := false }

/-- The entries of work arrays from `n` on, not marked. -/
def Work.upper (n : Nat) (w : Work) : Work := { re := w.re.drop n, im := w.im.drop n, mark := false }

/-- The first stage of a core of `2 n` points (R155). -/
def firstStage (n : Nat) (w : Work) : Work := fftStage (2 * n) w n

theorem hasSize_firstStage {n m : Nat} {w : Work} (h : w.HasSize m) : (firstStage n w).HasSize m :=
  hasSize_runButterflies h _

theorem hasSize_lower {n : Nat} {w : Work} (h : w.HasSize (2 * n)) : (w.lower n).HasSize n := by
  obtain ⟨hre, him⟩ := h
  constructor <;> simp only [Work.lower, List.length_take] <;> omega

theorem hasSize_upper {n : Nat} {w : Work} (h : w.HasSize (2 * n)) : (w.upper n).HasSize n := by
  obtain ⟨hre, him⟩ := h
  constructor <;> simp only [Work.upper, List.length_drop] <;> omega

/-- Work arrays are their two halves, with the mark on the lower one. -/
theorem Work.eq_beside (n : Nat) (w : Work) : w = ((w.lower n).orMark w.mark).beside (w.upper n) := by
  simp [Work.lower, Work.upper, Work.beside, Work.orMark]

/-- The core of twice the points: its first stage, then the core on each half, with the mark of each (R155). -/
theorem fftCore_double {b : Nat} {w : Work} (hw : w.HasSize (2 * 2 ^ b)) :
    fftCore (b + 1) w =
      ((fftCore b ((firstStage (2 ^ b) w).lower (2 ^ b))).orMark (firstStage (2 ^ b) w).mark).beside
        (fftCore b ((firstStage (2 ^ b) w).upper (2 ^ b))) := by
  have hlower : (((firstStage (2 ^ b) w).lower (2 ^ b)).orMark (firstStage (2 ^ b) w).mark).HasSize (2 ^ b) :=
    hasSize_lower (hasSize_firstStage hw)
  have hhalves := foldl_fftStage_beside (spans b) (fun _ => two_mul_dvd_of_mem_spans) hlower
    (hi := (firstStage (2 ^ b) w).upper (2 ^ b))
  rw [← Work.eq_beside] at hhalves
  calc fftCore (b + 1) w = (spans b).foldl (fftStage (2 * 2 ^ b)) (firstStage (2 ^ b) w) := by
        rw [firstStage, ← Nat.pow_succ']
        rfl
    _ = (fftCore b (((firstStage (2 ^ b) w).lower (2 ^ b)).orMark (firstStage (2 ^ b) w).mark)).beside
          (fftCore b ((firstStage (2 ^ b) w).upper (2 ^ b))) := hhalves
    _ = _ := by rw [fftCore_orMark]

/-- Settles O43, by the first stage and the halves it leaves. -/
theorem fftCoreIsBuiltFromTwoHalves : Obligations.FftCoreIsBuiltFromTwoHalves := by
  intro b w hre him
  rw [Nat.pow_succ'] at hre him ⊢
  exact fftCore_double ⟨hre, him⟩

end Sys2Proof.Machine

/-! The first stage of a core of `2 n` points is one group (R153): entry `k` of the lower half meets entry `k` of the
upper half. Its butterflies are on different entries, so each reads the words that stood before the stage. -/

namespace Sys2Proof.Machine

open Sys2Proof.Stating

/-- A run leaves the entries that none of its butterflies is on. -/
theorem wordAt_runButterflies_of_not_touches (l : List (Nat × Nat × Nat)) (w : Work) {i : Nat}
    (h : ∀ b ∈ l, ¬ touches b i) :
    wordAt (runButterflies l w).re i = wordAt w.re i ∧ wordAt (runButterflies l w).im i = wordAt w.im i := by
  induction l generalizing w with
  | nil => exact ⟨rfl, rfl⟩
  | cons b l ih =>
    obtain ⟨hre, him⟩ := ih (butterfly w b.1 b.2.1 b.2.2) fun c hc => h c (List.mem_cons_of_mem b hc)
    obtain ⟨hbre, hbim⟩ := wordAt_butterfly_of_not_touches w (h b List.mem_cons_self)
    exact ⟨hre.trans hbre, him.trans hbim⟩

section

variable (l : List (Nat × Nat × Nat)) (hl : l.Pairwise fun b c => ∀ i, touches b i → ¬ touches c i) (w : Work)

include hl

/-- What butterflies on different entries leave at an entry is what the one on that entry writes. -/
theorem wordAt_runButterflies_of_touches {b : Nat × Nat × Nat} (hb : b ∈ l) {i : Nat} (hi : touches b i) :
    wordAt (runButterflies l w).re i = wordAt (butterfly w b.1 b.2.1 b.2.2).re i ∧
    wordAt (runButterflies l w).im i = wordAt (butterfly w b.1 b.2.1 b.2.2).im i := by
  induction l generalizing w with
  | nil => cases hb
  | cons a l ih =>
    obtain ⟨ha, hl⟩ := List.pairwise_cons.1 hl
    rw [runButterflies_cons]
    obtain rfl | hb := List.mem_cons.1 hb
    · exact wordAt_runButterflies_of_not_touches l _ fun c hc => ha c hc i hi
    · obtain ⟨hre, him⟩ := ih hl (butterfly w a.1 a.2.1 a.2.2) hb
      rw [butterfly_comm (ha b hb)] at hre him
      obtain ⟨hare, haim⟩ := wordAt_butterfly_of_not_touches (butterfly w b.1 b.2.1 b.2.2) (b := a)
        fun hai => ha b hb i hai hi
      exact ⟨hre.trans hare, him.trans haim⟩

/-- Butterflies on different entries set the mark if one of them does on the words before all of them. -/
theorem runButterflies_mark_of_disjoint :
    (runButterflies l w).mark = true ↔ w.mark = true ∨ ∃ b ∈ l, butterflyLeaves w b := by
  induction l generalizing w with
  | nil => simp
  | cons a l ih =>
    obtain ⟨ha, hl⟩ := List.pairwise_cons.1 hl
    rw [runButterflies_cons, ih hl, butterfly_mark, or_assoc, List.exists_mem_cons_iff]
    exact or_congr_right (or_congr_right (exists_congr fun b =>
      and_congr_right fun hb => butterflyLeaves_butterfly (ha b hb) w))

end

/-- Entry `i` of the work arrays is the real datum `c`. -/
def Work.RealAt (w : Work) (i : Nat) (c : Word) : Prop := wordAt w.re i = c ∧ wordAt w.im i = 0#32

/-- The butterfly of the first stage of a core of `2 n` points that is on entries `k` and `k + n` (R153). -/
def firstButterfly (n k : Nat) : Nat × Nat × Nat := (k, k + n, k * (256 / n))

theorem mem_firstStage {n : Nat} (hn : 0 < n) (b : Nat × Nat × Nat) :
    b ∈ stageButterflies (2 * n) n ↔ ∃ k, k < n ∧ b = firstButterfly n k := by
  have hone : 2 * n / (2 * n) = 1 := Nat.div_self (by omega)
  simp [stageButterflies, hone, firstButterfly, eq_comm]

section

variable {n : Nat} {w : Work}

/-- The real data that the first stage leaves, butterfly by butterfly. -/
theorem realAt_firstStage {k i : Nat} {c : Word} (hk : k < n) (hi : touches (firstButterfly n k) i)
    (h : (butterfly w k (k + n) (k * (256 / n))).RealAt i c) : (firstStage n w).RealAt i c := by
  have hmem := (mem_firstStage (Nat.zero_lt_of_lt hk) _).2 ⟨k, hk, rfl⟩
  obtain ⟨hre, him⟩ := wordAt_runButterflies_of_touches _ (stageButterflies_disjoint _ _) w hmem hi
  exact ⟨hre.trans h.1, him.trans h.2⟩

theorem firstStage_mark (hn : 0 < n) :
    (firstStage n w).mark = true ↔ w.mark = true ∨ ∃ k, k < n ∧ butterflyLeaves w (firstButterfly n k) := by
  rw [firstStage, fftStage_eq_runButterflies, runButterflies_mark_of_disjoint _ (stageButterflies_disjoint _ _)]
  refine or_congr_right ?_
  simp only [mem_firstStage hn]
  exact ⟨fun ⟨_, ⟨k, hk, hb⟩, hleaves⟩ => ⟨k, hk, hb ▸ hleaves⟩, fun ⟨k, hk, hleaves⟩ => ⟨_, ⟨k, hk, rfl⟩, hleaves⟩⟩

end

end Sys2Proof.Machine

/-! Exact corners of the core (R150): a constant doubles at each stage and ends at index 0, and an impulse at index 0
reaches every index. -/

namespace Sys2Proof.Machine

open Sys2Proof.Stating

/-- `ROT` of zero is zero (R132). -/
theorem rot_zero (j : Nat) :
    rotRe 0#32 0#32 j = { val := 0#32, mark := false } ∧ rotIm 0#32 0#32 j = { val := 0#32, mark := false } := by
  have hrnd : rnd 0 coefBits = { val := 0#32, mark := false } := by decide
  simp [rotRe, rotIm, hrnd]

theorem not_leaves_toInt (c : Word) : ¬ leaves c.toInt := by
  rw [← mark_wr_iff_leaves, wr_toInt]
  exact Bool.false_ne_true

theorem not_leaves_zero : ¬ leaves 0 := not_leaves_toInt 0#32

/-- A value that leaves `s32` leaves it again when it is doubled `b` times. -/
theorem leaves_pow_mul {v : Int} (b : Nat) (h : leaves v) : leaves ((2 ^ b : Nat) * v) := by
  have hpow : (1 : Int) ≤ (2 ^ b : Nat) := mod_cast Nat.one_le_two_pow
  exact h.imp (fun hlow => by nlinarith) fun hhigh => by nlinarith

/-- `WR` of a multiple needs only the wrapped factor (R10). -/
theorem wr_mul_wr_val (m v : Int) : (wr (m * (wr v).val.toInt)).val = (wr (m * v)).val := by
  have hwrap : BitVec.ofInt 32 (m * (BitVec.ofInt 32 v).toInt) = BitVec.ofInt 32 (m * v) := by
    rw [BitVec.ofInt_mul, BitVec.ofInt_toInt, BitVec.ofInt_mul]
  exact hwrap

/-- Doubling once and then `b` times leaves `s32` on the way exactly if the last value does. -/
theorem leaves_double_iff (b : Nat) (v : Int) :
    leaves (2 * v) ∨ leaves ((2 ^ b : Nat) * (wr (2 * v)).val.toInt) ↔ leaves ((2 * 2 ^ b : Nat) * v) := by
  have hmul : ((2 * 2 ^ b : Nat) : Int) * v = (2 ^ b : Nat) * (2 * v) := by push_cast; ring
  rw [hmul]
  by_cases h : leaves (2 * v)
  · exact iff_of_true (.inl h) (leaves_pow_mul b h)
  · have hexact : (wr (2 * v)).val.toInt = 2 * v := by
      obtain ⟨hlo, hhi⟩ := not_or.1 h
      exact (wr_of_s32 (by omega) (by omega)).2
    rw [hexact, or_iff_right h]

section

variable {w : Work} {p q : Nat} {c : Word}

/-- A butterfly on equal real data: the doubled datum and zero, whatever the rotation. -/
theorem butterfly_of_equal (hp : w.RealAt p c) (hq : w.RealAt q c) (j : Nat) :
    butterfly w p q j =
      { re := (w.re.set p (wr (2 * c.toInt)).val).set q 0#32
        im := (w.im.set p 0#32).set q 0#32
        mark := w.mark || (wr (2 * c.toInt)).mark } := by
  obtain ⟨hpre, hpim⟩ := hp
  obtain ⟨hqre, hqim⟩ := hq
  have hwr : wr 0 = { val := 0#32, mark := false } := wr_toInt 0#32
  obtain ⟨hrot, hrot'⟩ := rot_zero j
  simp [butterfly, hpre, hpim, hqre, hqim, hwr, hrot, hrot', two_mul]

/-- A butterfly without rotation on a real datum and zero: the datum twice, exactly. -/
theorem butterfly_of_zero (hp : w.RealAt p c) (hq : w.RealAt q 0#32) :
    butterfly w p q 0 =
      { re := (w.re.set p c).set q c, im := (w.im.set p 0#32).set q 0#32, mark := w.mark } := by
  obtain ⟨hpre, hpim⟩ := hp
  obtain ⟨hqre, hqim⟩ := hq
  have hwr : wr 0 = { val := 0#32, mark := false } := wr_toInt 0#32
  obtain ⟨hrot, hrot', -, -⟩ := rotationsByQuarterTurnsAreExact c 0#32
  simp [butterfly, hpre, hpim, hqre, hqim, hwr, wr_toInt, hrot, hrot']

/-- Two written entries of work arrays. -/
theorem realAt_set {n : Nat} (hw : w.HasSize n) (hne : p ≠ q) (hp : p < n) (hq : q < n) (x y : Word) (m : Bool) :
    ({ re := (w.re.set p x).set q y, im := (w.im.set p 0#32).set q 0#32, mark := m } : Work).RealAt p x ∧
    ({ re := (w.re.set p x).set q y, im := (w.im.set p 0#32).set q 0#32, mark := m } : Work).RealAt q y := by
  obtain ⟨hre, him⟩ := hw
  simp [Work.RealAt, wordAt_set, hre, him, hne, hp, hq]

/-- A butterfly leaves `s32` exactly if it would set the mark on unmarked arrays. -/
theorem butterflyLeaves_iff (w : Work) (b : Nat × Nat × Nat) :
    butterflyLeaves w b ↔ (butterfly { w with mark := false } b.1 b.2.1 b.2.2).mark = true :=
  (or_iff_right Bool.false_ne_true).symm.trans (butterfly_mark { w with mark := false } b).symm

theorem butterflyLeaves_of_equal {b : Nat × Nat × Nat} (hp : w.RealAt b.1 c) (hq : w.RealAt b.2.1 c) :
    butterflyLeaves w b ↔ leaves (2 * c.toInt) := by
  rw [butterflyLeaves_iff, butterfly_of_equal (w := { w with mark := false }) hp hq, Bool.false_or, mark_wr_iff_leaves]

theorem not_butterflyLeaves_of_zero (hp : w.RealAt p c) (hq : w.RealAt q 0#32) : ¬ butterflyLeaves w (p, q, 0) := by
  rw [butterflyLeaves_iff, butterfly_of_zero (w := { w with mark := false }) hp hq]
  exact Bool.false_ne_true

end

section

variable {n k : Nat} {w : Work} {c : Word} (hw : w.HasSize (2 * n)) (hk : k < n) (hp : w.RealAt k c)

include hw hk hp

/-- The first stage on two equal real data (R152). -/
theorem realAt_firstStage_of_equal (hq : w.RealAt (k + n) c) :
    (firstStage n w).RealAt k (wr (2 * c.toInt)).val ∧ (firstStage n w).RealAt (k + n) 0#32 := by
  have hset := realAt_set (p := k) (q := k + n) hw (by omega) (by omega) (by omega) (wr (2 * c.toInt)).val 0#32
    (w.mark || (wr (2 * c.toInt)).mark)
  rw [← butterfly_of_equal hp hq (k * (256 / n))] at hset
  exact ⟨realAt_firstStage hk (.inl rfl) hset.1, realAt_firstStage hk (.inr rfl) hset.2⟩

/-- The first stage on a real datum at index 0 and zero, where the rotation is by index 0 (R152). -/
theorem realAt_firstStage_of_zero (hq : w.RealAt (k + n) 0#32) (hk0 : k = 0) :
    (firstStage n w).RealAt k c ∧ (firstStage n w).RealAt (k + n) c := by
  have hset := realAt_set (p := k) (q := k + n) hw (by omega) (by omega) (by omega) c c w.mark
  rw [← butterfly_of_zero hp hq, show 0 = k * (256 / n) by rw [hk0, Nat.zero_mul]] at hset
  exact ⟨realAt_firstStage hk (.inl rfl) hset.1, realAt_firstStage hk (.inr rfl) hset.2⟩

end

theorem realAt_lower {n i : Nat} {w : Work} (hi : i < n) (c : Word) : (w.lower n).RealAt i c ↔ w.RealAt i c := by
  simp [Work.RealAt, Work.lower, wordAt, List.getD_eq_getElem?_getD, hi]

theorem realAt_upper (n i : Nat) (w : Work) (c : Word) : (w.upper n).RealAt i c ↔ w.RealAt (i + n) c := by
  simp [Work.RealAt, Work.upper, wordAt, List.getD_eq_getElem?_getD, Nat.add_comm]

/-- The entries of two work arrays as one. -/
theorem realAt_beside {n i : Nat} {lo hi : Work} (hlo : lo.HasSize n) (c : Word) :
    (lo.beside hi).RealAt i c ↔ if i < n then lo.RealAt i c else hi.RealAt (i - n) c := by
  obtain ⟨hre, him⟩ := hlo
  split_ifs with h
  · simp only [Work.RealAt, Work.beside, wordAt_append_left, hre, him, h]
  · have hre' := wordAt_append_right hre hi.re (i - n)
    have him' := wordAt_append_right him hi.im (i - n)
    rw [Nat.add_sub_cancel' (Nat.le_of_not_lt h)] at hre' him'
    simp only [Work.RealAt, Work.beside, hre', him']

/-- The first stage on the constant `c`: `2 c`, wrapped, in the lower half and zero in the upper. -/
theorem firstStage_of_const {n : Nat} {w : Work} {c : Word} (hn : 0 < n) (hw : w.HasSize (2 * n))
    (hmark : w.mark = false) (hconst : ∀ i, i < 2 * n → w.RealAt i c) :
    (∀ k, k < n → (firstStage n w).RealAt k (wr (2 * c.toInt)).val ∧
      (firstStage n w).RealAt (k + n) 0#32) ∧
    ((firstStage n w).mark = true ↔ leaves (2 * c.toInt)) := by
  have hpair : ∀ k, k < n → w.RealAt k c ∧ w.RealAt (k + n) c := fun k hk =>
    ⟨hconst k (by omega), hconst (k + n) (by omega)⟩
  have hleaves : ∀ k, k < n → (butterflyLeaves w (firstButterfly n k) ↔ leaves (2 * c.toInt)) := fun k hk =>
    butterflyLeaves_of_equal (b := firstButterfly n k) (hpair k hk).1 (hpair k hk).2
  refine ⟨fun k hk => realAt_firstStage_of_equal hw hk (hpair k hk).1 (hpair k hk).2, ?_⟩
  rw [firstStage_mark hn, hmark, or_iff_right Bool.false_ne_true]
  exact ⟨fun ⟨k, hk, h⟩ => (hleaves k hk).1 h, fun h => ⟨0, hn, (hleaves 0 hn).2 h⟩⟩

/-- The first stage on the impulse `c` at index 0: the same impulse in both halves. -/
theorem firstStage_of_impulse {n : Nat} {w : Work} {c : Word} (hn : 0 < n) (hw : w.HasSize (2 * n))
    (hmark : w.mark = false) (himpulse : ∀ i, i < 2 * n → w.RealAt i (if i = 0 then c else 0#32)) :
    (∀ k, k < n → (firstStage n w).RealAt k (if k = 0 then c else 0#32) ∧
      (firstStage n w).RealAt (k + n) (if k = 0 then c else 0#32)) ∧
    (firstStage n w).mark = false := by
  have hupper : ∀ k, k < n → w.RealAt (k + n) 0#32 := fun k hk => by
    have h := himpulse (k + n) (by omega)
    rwa [if_neg (by omega)] at h
  refine ⟨fun k hk => ?_, Bool.eq_false_of_not_eq_true fun h => ?_⟩
  · have hp := himpulse k (by omega)
    split_ifs at hp ⊢ with hk0
    · exact realAt_firstStage_of_zero hw hk hp (hupper k hk) hk0
    · exact realAt_firstStage_of_equal hw hk hp (hupper k hk)
  · rw [firstStage_mark hn, hmark, or_iff_right Bool.false_ne_true] at h
    obtain ⟨k, hk, hleaves⟩ := h
    have hp := himpulse k (by omega)
    split_ifs at hp with hk0
    · rw [firstButterfly, hk0, Nat.zero_mul] at hleaves
      exact not_butterflyLeaves_of_zero (hk0 ▸ hp) (hk0 ▸ hupper k hk) hleaves
    · exact not_leaves_zero ((butterflyLeaves_of_equal (b := firstButterfly n k) hp (hupper k hk)).1 hleaves)

theorem hasSize_fftCore {b n : Nat} {w : Work} (h : w.HasSize n) : (fftCore b w).HasSize n :=
  ⟨(fftCore_length b w).1.trans h.1, (fftCore_length b w).2.trans h.2⟩

section

variable {b : Nat} {w : Work} (hw : w.HasSize (2 * 2 ^ b))

include hw

theorem hasSize_halves :
    ((firstStage (2 ^ b) w).lower (2 ^ b)).HasSize (2 ^ b) ∧
    ((firstStage (2 ^ b) w).upper (2 ^ b)).HasSize (2 ^ b) :=
  ⟨hasSize_lower (hasSize_firstStage hw), hasSize_upper (hasSize_firstStage hw)⟩

/-- What the two half-size cores leave, the core leaves (R155). -/
theorem realAt_fftCore_double {f : Nat → Word}
    (hlower : ∀ i, i < 2 ^ b → (fftCore b ((firstStage (2 ^ b) w).lower (2 ^ b))).RealAt i (f i))
    (hupper : ∀ i, i < 2 ^ b → (fftCore b ((firstStage (2 ^ b) w).upper (2 ^ b))).RealAt i (f (i + 2 ^ b))) :
    ∀ i, i < 2 * 2 ^ b → (fftCore (b + 1) w).RealAt i (f i) := by
  intro i hi
  have hsize : ((fftCore b ((firstStage (2 ^ b) w).lower (2 ^ b))).orMark
      (firstStage (2 ^ b) w).mark).HasSize (2 ^ b) := hasSize_fftCore (hasSize_halves hw).1
  rw [fftCore_double hw, realAt_beside hsize]
  split_ifs with hlt
  · exact hlower i hlt
  · have h := hupper (i - 2 ^ b) (by omega)
    rwa [Nat.sub_add_cancel (Nat.le_of_not_lt hlt)] at h

theorem fftCore_double_mark :
    (fftCore (b + 1) w).mark = true ↔ (firstStage (2 ^ b) w).mark = true ∨
      (fftCore b ((firstStage (2 ^ b) w).lower (2 ^ b))).mark = true ∨
      (fftCore b ((firstStage (2 ^ b) w).upper (2 ^ b))).mark = true := by
  rw [fftCore_double hw, Work.beside, Work.orMark, Bool.or_eq_true, Bool.or_eq_true, or_assoc]

end

/-- The core on the constant `c`: `2^b c` at index 0, wrapped, and zero elsewhere; some stage sets the mark exactly if
`2^b c` leaves `s32`. -/
theorem fftCore_of_const {b : Nat} {c : Word} {w : Work} (hw : w.HasSize (2 ^ b)) (hmark : w.mark = false)
    (hconst : ∀ i, i < 2 ^ b → w.RealAt i c) :
    (∀ i, i < 2 ^ b → (fftCore b w).RealAt i (if i = 0 then (wr ((2 ^ b : Nat) * c.toInt)).val else 0#32)) ∧
    ((fftCore b w).mark = true ↔ leaves ((2 ^ b : Nat) * c.toInt)) := by
  induction b generalizing c w with
  | zero =>
    have hcore : fftCore 0 w = w := rfl
    have hone : ((2 ^ 0 : Nat) : Int) * c.toInt = c.toInt := by simp
    rw [hcore, hone, wr_toInt]
    refine ⟨fun i hi => ?_, iff_of_false (by simp [hmark]) (not_leaves_toInt c)⟩
    rw [if_pos (by simpa using hi)]
    exact hconst i hi
  | succ b ih =>
    rw [Nat.pow_succ'] at hw hconst ⊢
    obtain ⟨hsizelo, hsizeup⟩ := hasSize_halves hw
    obtain ⟨hstage, hfirst⟩ := firstStage_of_const (by positivity) hw hmark hconst
    obtain ⟨hlo, hlomark⟩ := ih hsizelo rfl fun i hi => (realAt_lower hi _).2 (hstage i hi).1
    obtain ⟨hup, hupmark⟩ := ih hsizeup rfl fun i hi => (realAt_upper _ i _ _).2 (hstage i hi).2
    rw [BitVec.toInt_zero, mul_zero] at hup hupmark
    refine ⟨realAt_fftCore_double hw (fun i hi => ?_) fun i hi => ?_, ?_⟩
    · have hmul : ((2 * 2 ^ b : Nat) : Int) * c.toInt = (2 ^ b : Nat) * (2 * c.toInt) := by push_cast; ring
      rw [hmul, ← wr_mul_wr_val]
      exact hlo i hi
    · have hzero : (wr 0).val = 0#32 := rfl
      have h := hup i hi
      rw [hzero, ite_self] at h
      rwa [if_neg (by omega)]
    · rw [fftCore_double_mark hw, hfirst, hlomark, hupmark, or_iff_left not_leaves_zero, leaves_double_iff]

/-- The core on the impulse `c` at index 0: `c` everywhere, exactly. -/
theorem fftCore_of_impulse {b : Nat} {c : Word} {w : Work} (hw : w.HasSize (2 ^ b)) (hmark : w.mark = false)
    (himpulse : ∀ i, i < 2 ^ b → w.RealAt i (if i = 0 then c else 0#32)) :
    (∀ i, i < 2 ^ b → (fftCore b w).RealAt i c) ∧ (fftCore b w).mark = false := by
  induction b generalizing w with
  | zero =>
    refine ⟨fun i hi => ?_, hmark⟩
    have h := himpulse i hi
    rwa [if_pos (by simpa using hi)] at h
  | succ b ih =>
    rw [Nat.pow_succ'] at hw himpulse ⊢
    obtain ⟨hsizelo, hsizeup⟩ := hasSize_halves hw
    obtain ⟨hstage, hfirst⟩ := firstStage_of_impulse (by positivity) hw hmark himpulse
    obtain ⟨hlo, hlomark⟩ := ih hsizelo rfl fun i hi => (realAt_lower hi _).2 (hstage i hi).1
    obtain ⟨hup, hupmark⟩ := ih hsizeup rfl fun i hi => (realAt_upper _ i _ _).2 (hstage i hi).2
    refine ⟨realAt_fftCore_double hw hlo hup, ?_⟩
    rw [fftCore_double hw, Work.beside, Work.orMark, hfirst, hlomark, hupmark]
    rfl

end Sys2Proof.Machine

/-! The transforms on constants, impulses and zero (R150, R171 to R175, R312). -/

namespace Sys2Proof.Machine

open Sys2Proof.Stating

theorem points_eq_two_pow (sz : Size) : sz.points = 2 ^ sz.bits := by cases sz <;> rfl

theorem bitrev_lt_points (sz : Size) (k : Nat) : bitrev sz.bits k < sz.points :=
  points_eq_two_pow sz ▸ bitrev_lt sz.bits k

/-- The core of a size on the constant `c`, read in natural order (R150, R154). -/
theorem fftCore_bitrev_of_const {sz : Size} {c : Word} {w : Work} (hw : w.HasSize sz.points) (hmark : w.mark = false)
    (hconst : ∀ i, i < sz.points → w.RealAt i c) :
    (∀ k, k < sz.points → (fftCore sz.bits w).RealAt (bitrev sz.bits k)
      (if k = 0 then (wr (sz.points * c.toInt)).val else 0#32)) ∧
    ((fftCore sz.bits w).mark = true ↔ leaves (sz.points * c.toInt)) := by
  rw [points_eq_two_pow sz] at hw hconst ⊢
  obtain ⟨hcore, hcoremark⟩ := fftCore_of_const hw hmark hconst
  refine ⟨fun k hk => ?_, hcoremark⟩
  have h := hcore _ (bitrev_lt sz.bits k)
  simpa only [bitrev_eq_zero_iff hk] using h

/-- The core of a size on the impulse `c` at index 0, read in any order (R150). -/
theorem fftCore_bitrev_of_impulse {sz : Size} {c : Word} {w : Work} (hw : w.HasSize sz.points) (hmark : w.mark = false)
    (himpulse : ∀ i, i < sz.points → w.RealAt i (if i = 0 then c else 0#32)) :
    (∀ k, (fftCore sz.bits w).RealAt (bitrev sz.bits k) c) ∧ (fftCore sz.bits w).mark = false := by
  rw [points_eq_two_pow sz] at hw himpulse
  obtain ⟨hcore, hcoremark⟩ := fftCore_of_impulse hw hmark himpulse
  exact ⟨fun k => hcore _ (bitrev_lt sz.bits k), hcoremark⟩

/-- The core on zero is zero (R312). -/
theorem fftCore_bitrev_of_zero {sz : Size} {w : Work} (hw : w.HasSize sz.points) (hmark : w.mark = false)
    (hzero : ∀ i, i < sz.points → w.RealAt i 0#32) (k : Nat) :
    (fftCore sz.bits w).RealAt (bitrev sz.bits k) 0#32 :=
  (fftCore_bitrev_of_impulse hw hmark (by simpa only [ite_self] using hzero)).1 k

/-- The core of `DCT2` after its input permutation (R171). -/
def dct2Core (sz : Size) (x : List Word) : Work :=
  fftCore sz.bits
    { re := (List.range sz.points).map fun i =>
        if i < sz.points / 2 then wordAt x (2 * i) else wordAt x (2 * (sz.points - 1 - i) + 1)
      im := List.replicate sz.points 0#32
      mark := false }

/-- Output `k` of `DCT2` from the work arrays of its core (R171). -/
def dct2Out (sz : Size) (w : Work) (k : Nat) : Marked Word :=
  rotRe (wordAt w.re (bitrev sz.bits k)) (wordAt w.im (bitrev sz.bits k)) (k * (128 / sz.points))

theorem dct2_eq (sz : Size) (x : List Word) : dct2 sz x =
    { val := (markedList sz.points (dct2Out sz (dct2Core sz x))).val
      mark := (dct2Core sz x).mark || (markedList sz.points (dct2Out sz (dct2Core sz x))).mark } := rfl

/-- The core of `DCT3` after its pre-modulation (R172). -/
def dct3Core (sz : Size) (x : List Word) : Work :=
  fftCore sz.bits (preRotate sz.points x fun k => k * (128 / sz.points))

theorem dct3_mark (sz : Size) (x : List Word) : (dct3 sz x).mark = (dct3Core sz x).mark := rfl

/-- Every output of `DCT3` is the real part of some bin of its core (R172). -/
theorem wordAt_dct3 (sz : Size) (x : List Word) {k : Nat} (hk : k < sz.points) :
    ∃ m, wordAt (dct3 sz x).val k = wordAt (dct3Core sz x).re (bitrev sz.bits m) := by
  simp only [dct3, wordAt_mapRange, hk, if_true]
  split_ifs
  · exact ⟨_, rfl⟩
  · exact ⟨_, rfl⟩

/-- A list of words is not marked if none of them is. -/
theorem markedList_unmarked {n : Nat} {f : Nat → Marked Word} (h : ∀ i, i < n → (f i).mark = false) :
    (markedList n f).mark = false := by
  refine Bool.eq_false_of_not_eq_true fun hmark => ?_
  obtain ⟨i, hi, hf⟩ := (mark_markedList f n).1 hmark
  rw [h i hi] at hf
  cases hf

theorem hasSize_preRotate (n : Nat) (x : List Word) (idx : Nat → Nat) : (preRotate n x idx).HasSize n :=
  ⟨length_markedList .., length_markedList ..⟩

/-- A pre-modulation whose rotations give exact real data (R172, R173). -/
theorem preRotate_of_exact {n : Nat} {x : List Word} {idx : Nat → Nat} {f : Nat → Word}
    (h : ∀ i, i < n → rotRe (wordAt x i) 0#32 (idx i) = { val := f i, mark := false } ∧
      rotIm (wordAt x i) 0#32 (idx i) = { val := 0#32, mark := false }) :
    (preRotate n x idx).mark = false ∧ ∀ i, i < n → (preRotate n x idx).RealAt i (f i) := by
  refine ⟨Bool.or_eq_false_iff.2 ⟨markedList_unmarked fun i hi => ?_, markedList_unmarked fun i hi => ?_⟩,
    fun i hi => ?_⟩
  · rw [(h i hi).1]
  · rw [(h i hi).2]
  · simp [preRotate, Work.RealAt, hi, h i hi]

section

variable {sz : Size} {x : List Word} {c : Word}

/-- The rotation of bin 0 is by index 0, so `DCT2` of a constant is exact after the core. -/
theorem dct2_of_const (hx : ∀ i, i < sz.points → wordAt x i = c) :
    (∀ k, k < sz.points → wordAt (dct2 sz x).val k = if k = 0 then (wr (sz.points * c.toInt)).val else 0#32) ∧
    ((dct2 sz x).mark = true ↔ leaves (sz.points * c.toInt)) := by
  obtain ⟨hcore, hmark⟩ : (∀ k, k < sz.points → (dct2Core sz x).RealAt (bitrev sz.bits k)
      (if k = 0 then (wr (sz.points * c.toInt)).val else 0#32)) ∧
      ((dct2Core sz x).mark = true ↔ leaves (sz.points * c.toInt)) := by
    refine fftCore_bitrev_of_const ⟨by simp, by simp⟩ rfl fun i hi => ⟨?_, wordAt_replicate_zero _ _⟩
    have heven : 2 * (sz.points / 2) = sz.points := by cases sz <;> rfl
    rw [wordAt_mapRange, if_pos hi]
    split_ifs
    · exact hx _ (by omega)
    · exact hx _ (by omega)
  have hout : ∀ k, k < sz.points → dct2Out sz (dct2Core sz x) k =
      { val := if k = 0 then (wr (sz.points * c.toInt)).val else 0#32, mark := false } := fun k hk => by
    obtain ⟨hre, him⟩ := hcore k hk
    rw [dct2Out, hre, him]
    split_ifs with hk0
    · rw [hk0, Nat.zero_mul]
      exact (rotationsByQuarterTurnsAreExact _ _).1
    · exact (rot_zero _).1
  rw [dct2_eq]
  refine ⟨fun k hk => ?_, ?_⟩
  · rw [wordAt_markedList, if_pos hk, hout k hk]
  · rw [markedList_unmarked fun k hk => congrArg Marked.mark (hout k hk), Bool.or_false, hmark]

/-- `DCT3` of an impulse: index 0 is not rotated, and the other inputs are zero. -/
theorem dct3_of_impulse (hx : ∀ i, i < sz.points → wordAt x i = if i = 0 then c else 0#32) :
    (∀ k, k < sz.points → wordAt (dct3 sz x).val k = c) ∧ (dct3 sz x).mark = false := by
  have hrot : ∀ i, i < sz.points →
      rotRe (wordAt x i) 0#32 (i * (128 / sz.points)) = { val := if i = 0 then c else 0#32, mark := false } ∧
      rotIm (wordAt x i) 0#32 (i * (128 / sz.points)) = { val := 0#32, mark := false } := fun i hi => by
    rw [hx i hi]
    split_ifs with hi0
    · obtain ⟨hre, him, -, -⟩ := rotationsByQuarterTurnsAreExact c 0#32
      rw [hi0, Nat.zero_mul]
      exact ⟨hre, him⟩
    · exact rot_zero _
  obtain ⟨hpremark, hpre⟩ := preRotate_of_exact hrot
  obtain ⟨hcore, hmark⟩ := fftCore_bitrev_of_impulse (hasSize_preRotate _ _ _) hpremark hpre
  refine ⟨fun k hk => ?_, hmark⟩
  obtain ⟨m, hm⟩ := wordAt_dct3 sz x hk
  exact hm.trans (hcore m).1

end

section

variable {sz : Size} {x : List Word} (hx : ∀ i, i < sz.points → wordAt x i = 0#32)

include hx

theorem dct2_of_zero {k : Nat} (hk : k < sz.points) : wordAt (dct2 sz x).val k = 0#32 := by
  have hzero : (wr 0).val = 0#32 := rfl
  rw [(dct2_of_const hx).1 k hk, BitVec.toInt_zero, mul_zero, hzero, ite_self]

theorem dct3_of_zero {k : Nat} (hk : k < sz.points) : wordAt (dct3 sz x).val k = 0#32 :=
  (dct3_of_impulse (by simpa only [ite_self] using hx)).1 k hk

theorem dct4_of_zero {k : Nat} (hk : k < sz.points) : wordAt (dct4 sz x).val k = 0#32 := by
  obtain ⟨hpremark, hpre⟩ := preRotate_of_exact (x := x) (idx := fun i => (2 * i + 1) * (64 / sz.points))
    (f := fun _ => 0#32) fun i hi => by rw [hx i hi]; exact rot_zero _
  have hsum : ∀ m, dct4Sum sz (dct4Core sz x) m = 0 := fun m => by
    obtain ⟨hre, him⟩ := fftCore_bitrev_of_zero (hasSize_preRotate _ _ _) hpremark hpre m
    rw [dct4Sum, dct4Core, hre, him]
    simp
  have hrnd : (rnd 0 coefBits).val = 0#32 := by decide
  rw [dct4_eq, wordAt_markedList, if_pos hk, dct4Out, hsum, hsum, neg_zero, ite_self, hrnd]

/-- The sign alternation of zero is zero. -/
theorem negateOdd_of_zero {k : Nat} (hk : k < sz.points) : wordAt (negateOdd sz.points x).val k = 0#32 := by
  rw [negateOdd, wordAt_markedList, if_pos hk, hx k hk]
  split_ifs
  · rfl
  · rfl

theorem dst2_of_zero {k : Nat} (hk : k < sz.points) : wordAt (dst2 sz x).val k = 0#32 := by
  rw [dst2, wordAt_mapRange, if_pos hk]
  exact dct2_of_zero (fun _ hi => negateOdd_of_zero hx hi) (by omega)

theorem dst4_of_zero {k : Nat} (hk : k < sz.points) : wordAt (dst4 sz x).val k = 0#32 := by
  refine negateOdd_of_zero (fun _ hi => dct4_of_zero (fun i hi' => ?_) hi) hk
  rw [wordAt_mapRange, if_pos hi']
  exact hx _ (by omega)

end

end Sys2Proof.Machine

/-! The transform commands as updates of the state (R150, R176). -/

namespace Sys2Proof.Machine

open Sys2Proof.Stating

/-- The operands of `FFT` of a size as the work arrays of its core (R150). -/
def fftOperands (s : State) (sz : Size) : Work :=
  { re := operand s.xre sz.points, im := operand s.xim sz.points, mark := false }

/-- The state after `FFT` of a size (R150). -/
def runFft (s : State) (sz : Size) : State :=
  ((s.storeRe sz.points (fft sz (operand s.xre sz.points) (operand s.xim sz.points)).re).storeIm sz.points
    (fft sz (operand s.xre sz.points) (operand s.xim sz.points)).im).markOvf (fftCore sz.bits (fftOperands s sz)).mark

theorem wordAt_operand_of_lt {v : Vector Word 64} {n i : Nat} (hi : i < n) : wordAt (operand v n) i = entry v i := by
  rw [wordAt_operand, if_pos hi]

theorem points_le (sz : Size) : sz.points ≤ 64 := by cases sz <;> decide

section

variable {s : State} {sz : Size}

theorem exec_fft_of_points {n : BitVec 8} (hn : n.toNat = sz.points) : exec (.fft n) s = .next (runFft s sz) :=
  onSize_of_points hn

/-- The results of `FFT` are the core's, read through the bit reversal (R150). -/
theorem entry_runFft {k : Nat} (hk : k < sz.points) :
    entry (runFft s sz).yre k = wordAt (fftCore sz.bits (fftOperands s sz)).re (bitrev sz.bits k) ∧
    entry (runFft s sz).yim k = wordAt (fftCore sz.bits (fftOperands s sz)).im (bitrev sz.bits k) := by
  have hk64 := hk.trans_le (points_le sz)
  simp [runFft, entry_overwrite _ _ _ _ hk64, hk, fft, fftOperands]

/-- `FFT` leaves the result words from `N` on (R22). -/
theorem entry_runFft_of_le {k : Nat} (hk : sz.points ≤ k) (hk64 : k < 64) :
    entry (runFft s sz).yre k = entry s.yre k ∧ entry (runFft s sz).yim k = entry s.yim k := by
  simp [runFft, entry_overwrite _ _ _ _ hk64, Nat.not_lt.2 hk]

theorem runFft_ovf : (runFft s sz).ovf = (s.ovf || (fftCore sz.bits (fftOperands s sz)).mark) := rfl

theorem hasSize_fftOperands : (fftOperands s sz).HasSize sz.points := ⟨length_operand .., length_operand ..⟩

theorem realAt_fftOperands {i : Nat} {c : Word} (hi : i < sz.points) (hre : entry s.xre i = c)
    (him : entry s.xim i = 0#32) : (fftOperands s sz).RealAt i c := by
  simp [Work.RealAt, fftOperands, hi, hre, him]

/-- The results of an engine command are the engine's words (R176). -/
theorem entry_runEngine (engine : Size → List Word → Marked (List Word)) {k : Nat} (hk : k < sz.points) :
    entry (runEngine engine s sz).yre k = wordAt (engine sz (operand s.xre sz.points)).val k := by
  simp [runEngine, entry_overwrite _ _ _ _ (hk.trans_le (points_le sz)), hk]

/-- The results of a completed engine command. -/
theorem entry_of_engine {i : Instr} {n : BitVec 8} {t : State} (hn : n.toNat = sz.points)
    {engine : Size → List Word → Marked (List Word)} (ht : onSize i n s (runEngine engine s) = .next t) {k : Nat}
    (hk : k < sz.points) {c : Word} (hval : wordAt (engine sz (operand s.xre sz.points)).val k = c) :
    entry t.yre k = c := by
  rw [onSize_of_points hn] at ht
  cases ht
  rw [entry_runEngine _ hk, hval]

theorem runEngine_ovf (engine : Size → List Word → Marked (List Word)) :
    (runEngine engine s sz).ovf = (s.ovf || (engine sz (operand s.xre sz.points)).mark) := rfl

end

/-- Settles O49: a constant and an impulse through the core of `FFT`, and through the engines of `DCT2` and `DCT3`. -/
theorem constantsAndImpulsesTransformExactly : Obligations.ConstantsAndImpulsesTransformExactly := by
  intro s n sz c hn him
  have hpos : 0 < sz.points := by cases sz <;> decide
  refine ⟨fun hconst => ?_, fun himpulse => ?_⟩
  · rintro i (rfl | rfl)
    · obtain ⟨hcore, hmark⟩ := fftCore_bitrev_of_const (w := fftOperands s sz) hasSize_fftOperands rfl
        fun i hi => realAt_fftOperands hi (hconst i hi) (him i hi)
      refine ⟨_, exec_fft_of_points hn, ?_, ?_, fun k hk1 hk => ?_, fun _ k hk => ?_⟩
      · rw [(entry_runFft hpos).1, (hcore 0 hpos).1, if_pos rfl]
      · rw [runFft_ovf, Bool.or_eq_true, hmark]
      · rw [(entry_runFft hk).1, (hcore k hk).1, if_neg (by omega)]
      · rw [(entry_runFft hk).2, (hcore k hk).2]
    · obtain ⟨hval, hmark⟩ := dct2_of_const (sz := sz) fun i hi => (wordAt_operand_of_lt hi).trans (hconst i hi)
      refine ⟨_, onSize_of_points hn, ?_, ?_, fun k hk1 hk => ?_, nofun⟩
      · rw [entry_runEngine _ hpos, hval 0 hpos, if_pos rfl]
      · rw [runEngine_ovf, Bool.or_eq_true, hmark]
      · rw [entry_runEngine _ hk, hval k hk, if_neg (by omega)]
  · rintro i (rfl | rfl)
    · obtain ⟨hcore, hmark⟩ := fftCore_bitrev_of_impulse (w := fftOperands s sz) hasSize_fftOperands rfl
        fun i hi => realAt_fftOperands hi (himpulse i hi) (him i hi)
      refine ⟨_, exec_fft_of_points hn, ?_, fun k hk => ?_, fun _ k hk => ?_⟩
      · rw [runFft_ovf, hmark, Bool.or_false]
      · rw [(entry_runFft hk).1, (hcore k).1]
      · rw [(entry_runFft hk).2, (hcore k).2]
    · obtain ⟨hval, hmark⟩ := dct3_of_impulse (sz := sz) fun i hi => (wordAt_operand_of_lt hi).trans (himpulse i hi)
      refine ⟨_, onSize_of_points hn, ?_, fun k hk => ?_, nofun⟩
      · rw [runEngine_ovf, hmark, Bool.or_false]
      · rw [entry_runEngine _ hk, hval k hk]

/-- Settles O48: zero is within the headroom, so `OVF` stays, and each engine keeps zero. -/
theorem transformOfZeroIsZero : Obligations.TransformOfZeroIsZero := by
  intro s n sz hn hzero i hi
  have hatMost : atMost (2 ^ 29 / sz.points) 0#32 := by
    have hpos : (0 : Int) ≤ 2 ^ 29 / sz.points := by positivity
    exact ⟨neg_nonpos.2 hpos, hpos⟩
  obtain ⟨t, ht, hovf⟩ := boundedOperandsNeverOverflow s n sz hn (fun k hk => (hzero k hk).1 ▸ hatMost) i hi
    fun _ k hk => (hzero k hk).2 ▸ hatMost
  refine ⟨t, ht, hovf, fun k hk => ?_⟩
  have hx : ∀ i, i < sz.points → wordAt (operand s.xre sz.points) i = 0#32 := fun i hi => by
    rw [wordAt_operand_of_lt hi, (hzero i hi).1]
  simp only [transforms, List.mem_cons, List.not_mem_nil, or_false] at hi
  obtain rfl | rfl | rfl | rfl | rfl | rfl := hi
  · cases (exec_fft_of_points hn).symm.trans ht
    have hcore := fftCore_bitrev_of_zero (w := fftOperands s sz) hasSize_fftOperands rfl
      (fun i hi => realAt_fftOperands hi (hzero i hi).1 (hzero i hi).2) k
    exact ⟨(entry_runFft hk).1.trans hcore.1, fun _ => (entry_runFft hk).2.trans hcore.2⟩
  · exact ⟨entry_of_engine hn ht hk (dct2_of_zero hx hk), nofun⟩
  · exact ⟨entry_of_engine hn ht hk (dct3_of_zero hx hk), nofun⟩
  · exact ⟨entry_of_engine hn ht hk (dct4_of_zero hx hk), nofun⟩
  · exact ⟨entry_of_engine hn ht hk (dst2_of_zero hx hk), nofun⟩
  · exact ⟨entry_of_engine hn ht hk (dst4_of_zero hx hk), nofun⟩

/-- Only the offsets of `YRE` and `YIM` show the result buffers (R62, R63). -/
theorem busRead_with_results (s : State) (yre yim : Vector Word 64) {off : Nat} (h : ¬ (0x600 ≤ off ∧ off < 0x800)) :
    busRead { s with yre := yre, yim := yim } off = busRead s off := by
  have hre : ¬ (Config.offYre ≤ off ∧ off < Config.offYre + 0x100) := by simp only [Config.offYre]; omega
  have him : ¬ (Config.offYim ≤ off ∧ off < Config.offYim + 0x100) := by simp only [Config.offYim]; omega
  simp only [busRead, if_neg hre, if_neg him]
  rfl

/-- A command that changes only the first `n` result words and `OVF` is seen there and in `STATUS` only (R63). -/
theorem readsAsBefore_of_results {s : State} {yre yim : Vector Word 64} {ovf : Bool} {n : Nat}
    (hre : ∀ k, n ≤ k → k < 64 → entry yre k = entry s.yre k)
    (him : ∀ k, n ≤ k → k < 64 → entry yim k = entry s.yim k) :
    s.ReadsAsBefore (fun off => off = Config.offStatus ∨ bufferOffsets Config.offYre n off ∨
      bufferOffsets Config.offYim n off) { s with yre := yre, yim := yim, ovf := ovf } := by
  intro off htouched
  simp only [Config.offStatus, Config.offYre, Config.offYim, not_or] at htouched
  obtain ⟨hstatus, hyre, hyim⟩ := htouched
  have hflags := busRead_with_flags { s with yre := yre, yim := yim } s.fault ovf s.errcode hstatus
  refine hflags.trans ?_
  by_cases hbuf : 0x600 ≤ off ∧ off < 0x800
  · obtain ⟨hlo, hhi⟩ := hbuf
    by_cases hmid : off < 0x700
    · rw [busRead_yre_range _ hlo hmid, busRead_yre_range _ hlo hmid]
      exact hre _ (by omega) (by omega)
    · rw [busRead_yim_range _ (by omega) hhi, busRead_yim_range _ (by omega) hhi]
      exact him _ (by omega) (by omega)
  · exact busRead_with_results s yre yim hbuf

/-- Settles O21: the results and the frame by the rules of the two stores, the mark by the core's butterflies. -/
theorem fftStoresTheTransform : Obligations.FftStoresTheTransform := by
  intro s n sz hn
  obtain ⟨-, hmark⟩ := fftCoreRunsItsButterflies sz.bits (fftOperands s sz)
  refine ⟨runFft s sz, exec_fft_of_points hn, fun k hk => entry_runFft hk, fun k hk hk64 => entry_runFft_of_le hk hk64,
    ?_, rfl, readsAsBefore_of_results (fun k hk hk64 => (entry_runFft_of_le hk hk64).1)
      fun k hk hk64 => (entry_runFft_of_le hk hk64).2⟩
  rw [runFft_ovf, Bool.or_eq_true, hmark]
  exact or_congr_right (or_iff_right Bool.false_ne_true)

end Sys2Proof.Machine

/-! Words and marks of the core and of the pre-modulation apart (R124, R153, R172, R173): the words do not depend on the
mark, and the mark of each engine is an "or" over its parts. -/

namespace Sys2Proof.Machine

open Sys2Proof.Stating

/-- A temporary array is its words. -/
theorem eq_of_wordAt_eq {l l' : List Word} {n : Nat} (hl : l.length = n) (hl' : l'.length = n)
    (h : ∀ i, i < n → wordAt l i = wordAt l' i) : l = l' := by
  refine List.ext_getElem (hl.trans hl'.symm) fun i hi hi' => ?_
  have hword := h i (hl ▸ hi)
  simpa [wordAt, hi, hi'] using hword

/-- The words of the core are those of its operands, whatever mark the operands carry. -/
theorem fftCore_words_congr (b : Nat) {w z : Work} (hre : w.re = z.re) (him : w.im = z.im) :
    (fftCore b w).re = (fftCore b z).re ∧ (fftCore b w).im = (fftCore b z).im := by
  rw [w.eq_orMark, z.eq_orMark, fftCore_orMark, fftCore_orMark, hre, him]
  exact ⟨rfl, rfl⟩

theorem fftCore_mark (b : Nat) (w : Work) :
    (fftCore b w).mark = true ↔ w.mark = true ∨ coreLeaves b w.re w.im :=
  (fftCoreRunsItsButterflies b w).2

/-- The rotations of real data, whose products with the imaginary part vanish (R132). -/
theorem mark_rot_of_real (a : Word) (j : Nat) :
    ((rotRe a 0#32 j).mark = true ↔ roundsOut (a.toInt * twc j)) ∧
    ((rotIm a 0#32 j).mark = true ↔ roundsOut (-(a.toInt * tws j))) := by
  simp [rotRe, rotIm, mark_rnd_iff_roundsOut]

theorem preRotate_mark (n : Nat) (x : List Word) (idx : Nat → Nat) :
    (preRotate n x idx).mark = true ↔
      ∃ k, k < n ∧
        (roundsOut ((wordAt x k).toInt * twc (idx k)) ∨ roundsOut (-((wordAt x k).toInt * tws (idx k)))) := by
  simp only [preRotate, Bool.or_eq_true, mark_markedList, mark_rot_of_real, ← exists_or, ← and_or_left]

section

variable {n : Nat} {x : List Word} {idx : Nat → Nat} {z : Work} (hre : z.re.length = n) (him : z.im.length = n)
  (hz : ∀ k, k < n →
    wordAt z.re k = (rotRe (wordAt x k) 0#32 (idx k)).val ∧ wordAt z.im k = (rotIm (wordAt x k) 0#32 (idx k)).val)

include hre him hz

/-- The rotated samples are the words of the pre-modulation. -/
theorem preRotate_words : (preRotate n x idx).re = z.re ∧ (preRotate n x idx).im = z.im := by
  obtain ⟨hlre, hlim⟩ := hasSize_preRotate n x idx
  refine ⟨eq_of_wordAt_eq hlre hre fun k hk => ?_, eq_of_wordAt_eq hlim him fun k hk => ?_⟩
  · rw [preRotate, wordAt_markedList, if_pos hk, (hz k hk).1]
  · rw [preRotate, wordAt_markedList, if_pos hk, (hz k hk).2]

/-- The core after the pre-modulation is the core on the rotated samples, marked by the roundings of either. -/
theorem fftCore_preRotate (b : Nat) :
    (fftCore b (preRotate n x idx)).re = (fftCore b z).re ∧ (fftCore b (preRotate n x idx)).im = (fftCore b z).im ∧
    ((fftCore b (preRotate n x idx)).mark = true ↔
      (∃ k, k < n ∧
        (roundsOut ((wordAt x k).toInt * twc (idx k)) ∨ roundsOut (-((wordAt x k).toInt * tws (idx k))))) ∨
      coreLeaves b z.re z.im) := by
  obtain ⟨hpre, hpim⟩ := preRotate_words hre him hz
  obtain ⟨hcre, hcim⟩ := fftCore_words_congr b hpre hpim
  refine ⟨hcre, hcim, ?_⟩
  rw [fftCore_mark, preRotate_mark, hpre, hpim]

end

end Sys2Proof.Machine

/-! The output permutations of `DCT3` and `DCT4`, and the sign alternation of `DST2` and `DST4` (R172 to R175). -/

namespace Sys2Proof.Machine

open Sys2Proof.Stating

theorem two_mul_half_points (sz : Size) : 2 * (sz.points / 2) = sz.points := by cases sz <;> rfl

/-- The input permutation of `DCT2`: the two halves of its conditions name every entry once (R171). -/
theorem eq_dct2Permutation {sz : Size} {x v : List Word} (hlen : v.length = sz.points)
    (hv : ∀ n, n < sz.points / 2 →
      wordAt v n = wordAt x (2 * n) ∧ wordAt v (sz.points - 1 - n) = wordAt x (2 * n + 1)) :
    v = (List.range sz.points).map fun i =>
      if i < sz.points / 2 then wordAt x (2 * i) else wordAt x (2 * (sz.points - 1 - i) + 1) := by
  have hhalf := two_mul_half_points sz
  refine eq_of_wordAt_eq hlen (by simp) fun i hi => ?_
  rw [wordAt_mapRange, if_pos hi]
  split_ifs with hlow
  · exact (hv i hlow).1
  · have hodd := (hv (sz.points - 1 - i) (by omega)).2
    rwa [show sz.points - 1 - (sz.points - 1 - i) = i by omega] at hodd

/-- The even outputs of `DCT3` are the bins ascending, the odd ones the bins descending (R172). -/
theorem wordAt_dct3_pair (sz : Size) (x : List Word) {n : Nat} (hn : n < sz.points / 2) :
    wordAt (dct3 sz x).val (2 * n) = wordAt (dct3Core sz x).re (bitrev sz.bits n) ∧
    wordAt (dct3 sz x).val (2 * n + 1) = wordAt (dct3Core sz x).re (bitrev sz.bits (sz.points - 1 - n)) := by
  have heven : 2 * n < sz.points := by omega
  have hodd : 2 * n + 1 < sz.points := by omega
  have hdiv : (2 * n + 1) / 2 = n := by omega
  simp [dct3, dct3Core, heven, hodd, hdiv]

/-- The output of `DCT4` that bin `m` gives (R173). -/
def dct4Slot (sz : Size) (m : Nat) : Nat := if m < sz.points / 2 then 2 * m else 2 * (sz.points - 1 - m) + 1

theorem dct4Slot_lt {sz : Size} {m : Nat} (hm : m < sz.points) : dct4Slot sz m < sz.points := by
  have hhalf := two_mul_half_points sz
  rw [dct4Slot]
  split_ifs <;> omega

/-- Every output of `DCT4` comes from some bin (R173). -/
theorem exists_dct4Slot_eq {sz : Size} {k : Nat} (hk : k < sz.points) : ∃ m, m < sz.points ∧ dct4Slot sz m = k := by
  have hhalf := two_mul_half_points sz
  obtain heven | hodd := Nat.mod_two_eq_zero_or_one k
  · exact ⟨k / 2, by omega, by rw [dct4Slot, if_pos (by omega)]; omega⟩
  · exact ⟨sz.points - 1 - k / 2, by omega, by rw [dct4Slot, if_neg (by omega)]; omega⟩

/-- Bin `m` gives its output by rounding its accumulator, negated in the upper half (R173). -/
theorem dct4Out_dct4Slot (sz : Size) (w : Work) {m : Nat} (hm : m < sz.points) :
    dct4Out sz w (dct4Slot sz m) = rnd (if m < sz.points / 2 then dct4Sum sz w m else -dct4Sum sz w m) coefBits := by
  by_cases hlow : m < sz.points / 2
  · have hbin : 2 * m / 2 = m := by omega
    rw [dct4Slot, if_pos hlow, dct4Out, if_pos (by omega), hbin, if_pos hlow]
  · have hbin : sz.points - 1 - (2 * (sz.points - 1 - m) + 1) / 2 = m := by omega
    rw [dct4Slot, if_neg hlow, dct4Out, if_neg (by omega), hbin, if_neg hlow]

/-- The accumulators depend on the words only. -/
theorem dct4Sum_congr (sz : Size) {w z : Work} (hre : w.re = z.re) (him : w.im = z.im) :
    dct4Sum sz w = dct4Sum sz z := by
  funext m
  rw [dct4Sum, hre, him, ← dct4Sum]

theorem wordAt_dct4 (sz : Size) (x : List Word) {k : Nat} (hk : k < sz.points) :
    wordAt (dct4 sz x).val k = (dct4Out sz (dct4Core sz x) k).val := by
  rw [dct4_eq, wordAt_markedList, if_pos hk]

/-- The mark of `DCT4`, bin by bin. -/
theorem dct4_mark (sz : Size) (x : List Word) :
    (dct4 sz x).mark = true ↔ (dct4Core sz x).mark = true ∨
      ∃ m, m < sz.points ∧ roundsOut
        (if m < sz.points / 2 then dct4Sum sz (dct4Core sz x) m else -dct4Sum sz (dct4Core sz x) m) := by
  rw [dct4_eq, Bool.or_eq_true, mark_markedList]
  refine or_congr_right ⟨?_, ?_⟩
  · rintro ⟨k, hk, hmark⟩
    obtain ⟨m, hm, rfl⟩ := exists_dct4Slot_eq hk
    rw [dct4Out_dct4Slot sz _ hm, mark_rnd_iff_roundsOut] at hmark
    exact ⟨m, hm, hmark⟩
  · rintro ⟨m, hm, hout⟩
    refine ⟨dct4Slot sz m, dct4Slot_lt hm, ?_⟩
    rwa [dct4Out_dct4Slot sz _ hm, mark_rnd_iff_roundsOut]

theorem wordAt_negateOdd (x : List Word) {n k : Nat} (hk : k < n) :
    wordAt (negateOdd n x).val k = if k % 2 = 0 then wordAt x k else (wr (-(wordAt x k).toInt)).val := by
  rw [negateOdd, wordAt_markedList, if_pos hk]
  split_ifs <;> rfl

/-- Only the entries of odd index are negated, so only these can set the mark (R174, R175). -/
theorem negateOdd_mark (n : Nat) (x : List Word) :
    (negateOdd n x).mark = true ↔ ∃ i, i < n ∧ i % 2 = 1 ∧ leaves (-(wordAt x i).toInt) := by
  rw [negateOdd, mark_markedList]
  refine exists_congr fun i => and_congr_right fun _ => ?_
  obtain heven | hodd := Nat.mod_two_eq_zero_or_one i
  · simp [heven]
  · simp [hodd, mark_wr_iff_leaves]

/-- `DST2` reads the inner `DCT2` backwards (R174). -/
theorem wordAt_dst2 (sz : Size) (x : List Word) {k : Nat} (hk : k < sz.points) :
    wordAt (dst2 sz x).val k = wordAt (dct2 sz (negateOdd sz.points x).val).val (sz.points - 1 - k) := by
  rw [dst2, wordAt_mapRange, if_pos hk]

theorem dst2_mark (sz : Size) (x : List Word) :
    (dst2 sz x).mark = true ↔ (∃ n, n < sz.points ∧ n % 2 = 1 ∧ leaves (-(wordAt x n).toInt)) ∨
      (dct2 sz (negateOdd sz.points x).val).mark = true := by
  rw [← negateOdd_mark]
  exact Iff.of_eq (Bool.or_eq_true _ _)

/-- The condition fixes the reversed input of `DST4` (R175). -/
theorem dst4_eq_of_reversed {sz : Size} {x xr : List Word} (hlen : xr.length = sz.points)
    (hxr : ∀ n, n < sz.points → wordAt xr n = wordAt x (sz.points - 1 - n)) :
    dst4 sz x =
      { val := (negateOdd sz.points (dct4 sz xr).val).val
        mark := (dct4 sz xr).mark || (negateOdd sz.points (dct4 sz xr).val).mark } := by
  have hrev : xr = (List.range sz.points).map fun i => wordAt x (sz.points - 1 - i) :=
    eq_of_wordAt_eq hlen (by simp) fun n hn => by rw [hxr n hn, wordAt_mapRange, if_pos hn]
  rw [hrev]
  rfl

end Sys2Proof.Machine

/-! The statements on the engines and their commands (spec/42_transforms.md section 2). -/

namespace Sys2Proof.Machine

open Sys2Proof.Stating

/-- Settles O28: the conditions fix the permuted input, and the marks are those of the core and of the rotations. -/
theorem dct2FollowsItsDatapath : Obligations.Dct2FollowsItsDatapath := by
  intro sz x v hlen hv w
  have hw : dct2Core sz x = w := by rw [dct2Core, ← eq_dct2Permutation hlen hv]
  rw [dct2_eq, hw]
  refine ⟨length_markedList .., fun k hk => ?_, ?_⟩
  · rw [wordAt_markedList, if_pos hk, dct2Out]
  · rw [Bool.or_eq_true, fftCore_mark, or_iff_right Bool.false_ne_true, mark_markedList]
    simp only [dct2Out, rotRe, mark_rnd_iff_roundsOut]

/-- Settles O29: the outputs are bins of the core, which runs on the pre-modulated samples. -/
theorem dct3FollowsItsDatapath : Obligations.Dct3FollowsItsDatapath := by
  intro sz x z hre him hz w
  obtain ⟨hcre, -, hmark⟩ := fftCore_preRotate hre him hz sz.bits
  refine ⟨by simp [dct3], fun n hn => ?_, hmark⟩
  have hpair := wordAt_dct3_pair sz x hn
  rwa [dct3Core, hcre] at hpair

/-- Settles O30: bin `m` gives output `dct4Slot sz m`, and every output comes from one bin. -/
theorem dct4FollowsItsDatapath : Obligations.Dct4FollowsItsDatapath := by
  intro sz x z hre him hz w
  obtain ⟨hcre, hcim, hmark⟩ := fftCore_preRotate hre him hz sz.bits
  have hsum : dct4Sum sz (dct4Core sz x) = dct4Sum sz w := dct4Sum_congr sz hcre hcim
  have hout : ∀ m, m < sz.points → wordAt (dct4 sz x).val (dct4Slot sz m) =
      (rnd (if m < sz.points / 2 then dct4Sum sz w m else -dct4Sum sz w m) coefBits).val := fun m hm => by
    rw [wordAt_dct4 sz x (dct4Slot_lt hm), dct4Out_dct4Slot sz _ hm, hsum]
  refine ⟨by simp [dct4_eq], fun m hm => ⟨fun hlow => ?_, fun hhigh => ?_⟩, ?_⟩
  · have hbin := hout m hm
    rwa [dct4Slot, if_pos hlow, if_pos hlow] at hbin
  · have hbin := hout m hm
    rwa [dct4Slot, if_neg (Nat.not_lt.2 hhigh), if_neg (Nat.not_lt.2 hhigh)] at hbin
  · rw [dct4_mark, hsum, ← or_assoc]
    exact or_congr_left hmark

/-- Settles O31: the conditions fix the alternated and the reversed input; a negated `-2^31` is `2^31`. -/
theorem dstEnginesReverseAndAlternate : Obligations.DstEnginesReverseAndAlternate := by
  refine ⟨fun sz x xa hlen hxa => ?_, fun sz x xr hlen hxr => ?_, fun sz x n hn hodd hmin => ?_⟩
  · have halt : xa = (negateOdd sz.points x).val :=
      eq_of_wordAt_eq hlen (length_markedList ..) fun n hn => by rw [hxa n hn, wordAt_negateOdd x hn]
    rw [halt]
    exact ⟨fun k hk => wordAt_dst2 sz x hk, dst2_mark sz x⟩
  · rw [dst4_eq_of_reversed hlen hxr, Bool.or_eq_true, negateOdd_mark]
    exact ⟨fun k hk => wordAt_negateOdd _ hk, Iff.rfl⟩
  · have hleaves : leaves (-(0x80000000#32).toInt) := .inr (by decide)
    exact (dst2_mark sz x).2 (.inl ⟨n, hn, hodd, hmin ▸ hleaves⟩)

/-! The commands of the engines (R176). -/

/-- An engine command leaves the result words from `N` on (R22). -/
theorem entry_runEngine_of_le {s : State} {sz : Size} (engine : Size → List Word → Marked (List Word)) {k : Nat}
    (hk : sz.points ≤ k) (hk64 : k < 64) : entry (runEngine engine s sz).yre k = entry s.yre k := by
  simp [runEngine, entry_overwrite _ _ _ _ hk64, Nat.not_lt.2 hk]

/-- An engine command is seen in `STATUS` and the first `N` words of `YRE` only (R63, R176). -/
theorem readsAsBefore_runEngine (engine : Size → List Word → Marked (List Word)) (s : State) (sz : Size) :
    s.ReadsAsBefore (fun off => off = Config.offStatus ∨ bufferOffsets Config.offYre sz.points off)
      (runEngine engine s sz) := by
  intro off htouched
  obtain ⟨hstatus, hyre⟩ := not_or.1 htouched
  have hpoints := points_le sz
  by_cases hyim : bufferOffsets Config.offYim sz.points off
  · simp only [Config.offYim] at hyim
    rw [busRead_yim_range _ (by omega) (by omega), busRead_yim_range _ (by omega) (by omega)]
    rfl
  · have hreads := readsAsBefore_of_results (s := s) (yre := (runEngine engine s sz).yre) (yim := s.yim)
      (ovf := (runEngine engine s sz).ovf) (fun k hk hk64 => entry_runEngine_of_le engine hk hk64) fun _ _ _ => rfl
    exact hreads off (not_or.2 ⟨hstatus, not_or.2 ⟨hyre, hyim⟩⟩)

/-- A command that checks its size and runs an engine is that engine's command (R176). -/
theorem engineRuns_of_exec {mk : BitVec 8 → Instr} {engine : Size → List Word → Marked (List Word)}
    (hexec : ∀ n s, exec (mk n) s = onSize (mk n) n s (runEngine engine s)) : EngineRuns mk engine := by
  intro s n sz hn
  exact ⟨runEngine engine s sz, (hexec n s).trans (onSize_of_points hn), fun k hk => entry_runEngine engine hk,
    fun k hk hk64 => entry_runEngine_of_le engine hk hk64, runEngine_ovf engine, rfl,
    readsAsBefore_runEngine engine s sz⟩

/-- Settles O22: the arms of the five commands, each with its own engine. -/
theorem transformCommandsRunTheirEngines : Obligations.TransformCommandsRunTheirEngines :=
  ⟨engineRuns_of_exec fun _ _ => rfl, engineRuns_of_exec fun _ _ => rfl, engineRuns_of_exec fun _ _ => rfl,
    engineRuns_of_exec fun _ _ => rfl, engineRuns_of_exec fun _ _ => rfl⟩

end Sys2Proof.Machine

/-! Reads of the context registers after one channel's contexts are replaced (R36 to R38, R63). -/

namespace Sys2Proof.Machine

/-- A change of one channel that keeps the bit of that channel keeps the sum. -/
theorem contextBits_modify {b : Channel → Bool} {f : Channel → Channel} {l : List Channel} {c : Nat}
    (h : ∀ ch, l[c]? = some ch → b (f ch) = b ch) : contextBits b (l.modify c f) = contextBits b l := by
  refine Nat.eq_of_testBit_eq fun d => ?_
  rw [testBit_contextBits, testBit_contextBits, List.getElem?_modify]
  cases hd : l[d]? with
  | none => rfl
  | some ch =>
    dsimp only [Option.map_some, Option.any_some]
    split_ifs with hcd
    · exact h ch (hcd ▸ hd)
    · rfl

/-- Only the three registers of the contexts show more of the list of contexts than its length (R63). -/
theorem busRead_with_channels {s : State} {l : List Channel} {off : Nat} (hlen : l.length = s.channels.length)
    (hvalid : off = Config.offCtxValid → ({ s with channels := l } : State).ctxValidWord = s.ctxValidWord)
    (hmode : off = Config.offCtxMode → ({ s with channels := l } : State).ctxModeWord = s.ctxModeWord)
    (hvidx : off = Config.offVidx → ({ s with channels := l } : State).vidxWord = s.vidxWord) :
    busRead { s with channels := l } off = busRead s off := by
  by_cases hv : off = Config.offCtxValid
  · subst hv; exact hvalid rfl
  by_cases hm : off = Config.offCtxMode
  · subst hm; exact hmode rfl
  by_cases hx : off = Config.offVidx
  · subst hx; exact hvidx rfl
  simp only [busRead, State.nch, hlen, if_neg hv, if_neg hm, if_neg hx]
  rfl

section

variable (s : State) (c : Nat) (a : AnaCtx)

theorem State.sameOtherChannels_setAna : s.SameOtherChannels c (s.setAna c a) :=
  ⟨s.nch_setAna c a, fun d hd => by simp [hd.symm]⟩

theorem State.setAna_getElem?_self {ch : Channel} (hch : s.channels[c]? = some ch) :
    (s.setAna c a).channels[c]? = some { ch with ana := a } := by
  rw [State.setAna_getElem?, hch, Option.map_some, if_pos rfl]

/-- A register half of synthesis contexts does not show `A[c]`. -/
theorem contextBits_setAna_syn (p : SynCtx → Bool) :
    contextBits (fun ch => p ch.syn) (s.setAna c a).channels = contextBits (fun ch => p ch.syn) s.channels :=
  contextBits_modify fun _ _ => rfl

/-- A register half of analysis contexts shows of `A[c]` its own bit only. -/
theorem contextBits_setAna_ana {ch : Channel} (hch : s.channels[c]? = some ch) {p : AnaCtx → Bool}
    (hp : p a = p ch.ana) :
    contextBits (fun ch => p ch.ana) (s.setAna c a).channels = contextBits (fun ch => p ch.ana) s.channels :=
  contextBits_modify fun ch' hch' => by rw [Option.some.inj (hch'.symm.trans hch), hp]

/-- `VIDX` is of the synthesis contexts alone (R38). -/
theorem State.setAna_vidxWord : (s.setAna c a).vidxWord = s.vidxWord :=
  congrArg (BitVec.ofNat 32) (contextBits_setAna_syn s c a fun y => decide (y.vidx = 1))

/-- `A[c]` is seen in `CTXVALID` and `CTXMODE` only (R63). -/
theorem State.readsAsBefore_setAna :
    s.ReadsAsBefore (fun off => off = Config.offCtxValid ∨ off = Config.offCtxMode) (s.setAna c a) := by
  intro off htouched
  obtain ⟨hvalid, hmode⟩ := not_or.1 htouched
  exact busRead_with_channels (by simp) (absurd · hvalid) (absurd · hmode) fun _ => s.setAna_vidxWord c a

/-- The history of an analysis context is not readable: with the valid bit and the mode kept, every offset reads as
before (R36, R37, R63). -/
theorem State.busRead_setAna_of_sameBits {ch : Channel} (hch : s.channels[c]? = some ch)
    (hvalid : a.valid = ch.ana.valid) (hmode : a.mode = ch.ana.mode) (off : Nat) :
    busRead (s.setAna c a) off = busRead s off := by
  have hvalidWord := congrArg₂ (fun m n => BitVec.ofNat 32 (m + 2 ^ 16 * n))
    (contextBits_setAna_ana s c a hch (p := (·.valid)) hvalid) (contextBits_setAna_syn s c a (·.valid))
  have hmodeWord := congrArg₂ (fun m n => BitVec.ofNat 32 (m + 2 ^ 16 * n))
    (contextBits_setAna_ana s c a hch (p := (·.mode.toBit)) (congrArg Mode.toBit hmode))
    (contextBits_setAna_syn s c a (·.mode.toBit))
  exact busRead_with_channels (by simp) (fun _ => hvalidWord) (fun _ => hmodeWord)
    fun _ => s.setAna_vidxWord c a

end

end Sys2Proof.Machine

/-! The history of an analysis context over several slots (R204, R210). -/

namespace Sys2Proof.Machine

section

variable (h : Vector Word 320) (x : Vector Word 64)

/-- The 32 new samples stand in front, the latest first. -/
theorem entry_ahist_front {j : Nat} (hj : j < 32) : entry (ahist h x) (31 - j) = entry x j := by
  have hback : 31 - (31 - j) = j := by omega
  rw [ahist, entry_tabulate, if_pos (by omega), if_pos (by omega), hback]

/-- Every older sample is 32 places up. -/
theorem entry_ahist_add {i : Nat} (hi : 32 + i < 320) : entry (ahist h x) (32 + i) = entry h i := by
  rw [ahist, entry_tabulate, if_pos hi, if_neg (by omega), Nat.add_sub_cancel_left]

/-- A sample moves up by 32 places in each slot, as long as it is in the history. -/
theorem entry_foldl_ahist (ys : List (Vector Word 64)) {i : Nat} (hi : 32 * ys.length + i < 320) :
    entry (ys.foldl ahist h) (32 * ys.length + i) = entry h i := by
  induction ys generalizing h i with
  | nil => rw [List.foldl_nil, List.length_nil, Nat.mul_zero, Nat.zero_add]
  | cons y ys ih =>
    rw [List.length_cons] at hi ⊢
    have hplace : 32 * (ys.length + 1) + i = 32 * ys.length + (32 + i) := by omega
    rw [List.foldl_cons, hplace, ih _ (by omega), entry_ahist_add _ _ (by omega)]

end

end Sys2Proof.Machine

/-! The steps of an analysis slot (R205 to R207). -/

namespace Sys2Proof.Machine

open Sys2Proof.Stating

/-- A list of words that `WR` makes is marked exactly when one of them leaves `s32`. -/
theorem markedList_wr_mark (n : Nat) (f : Nat → Int) :
    (markedList n fun i => wr (f i)).mark = true ↔ ∃ i, i < n ∧ leaves (f i) := by
  simp only [mark_markedList, mark_wr_iff_leaves]

/-- The sum of five products that a windowed sum rounds (R205). -/
def windowSum (proto : Vector Word 640) (h : Vector Word 320) (n : Nat) : Int :=
  ∑ k ∈ Finset.range 5, (entry h (n + 64 * k)).toInt * (entry proto (2 * (n + 64 * k))).toInt

theorem awindow_eq (proto : Vector Word 640) (h : Vector Word 320) :
    awindow proto h = markedList 64 fun n => rnd (windowSum proto h n) coefBits := rfl

theorem awindow_mark (proto : Vector Word 640) (h : Vector Word 320) :
    (awindow proto h).mark = true ↔ ∃ n, n < 64 ∧ roundsOut (windowSum proto h n) := by
  simp only [awindow_eq, mark_markedList, mark_rnd_iff_roundsOut]

section

variable (u : List Word)

/-- Entry `n` of the fold, with its mark (R206). -/
def lpFoldEntry (n : Nat) : Marked Word :=
  if n = 0 then { val := wordAt u 48, mark := false }
  else if n < 16 then wr ((wordAt u (n + 48)).toInt + (wordAt u (48 - n)).toInt)
  else wr (-(wordAt u (n - 16)).toInt + (wordAt u (48 - n)).toInt)

theorem lpFold_eq : lpFold u = markedList 32 (lpFoldEntry u) := rfl

theorem lpFoldEntry_of_le_15 {n : Nat} (hlo : 1 ≤ n) (hhi : n ≤ 15) :
    lpFoldEntry u n = wr ((wordAt u (n + 48)).toInt + (wordAt u (48 - n)).toInt) := by
  rw [lpFoldEntry, if_neg (by omega), if_pos (by omega)]

theorem lpFoldEntry_of_16_le {n : Nat} (hlo : 16 ≤ n) :
    lpFoldEntry u n = wr (-(wordAt u (n - 16)).toInt + (wordAt u (48 - n)).toInt) := by
  rw [lpFoldEntry, if_neg (by omega), if_neg (by omega)]

theorem wordAt_lpFold {n : Nat} (hn : n < 32) : wordAt (lpFold u).val n = (lpFoldEntry u n).val := by
  rw [lpFold_eq, wordAt_markedList, if_pos hn]

/-- The fold is marked by its sums; entry 0 is a copy (R206). -/
theorem lpFold_mark : (lpFold u).mark = true ↔
    (∃ n, 1 ≤ n ∧ n ≤ 15 ∧ leaves ((wordAt u (n + 48)).toInt + (wordAt u (48 - n)).toInt)) ∨
    ∃ n, 16 ≤ n ∧ n ≤ 31 ∧ leaves (-(wordAt u (n - 16)).toInt + (wordAt u (48 - n)).toInt) := by
  rw [lpFold_eq, mark_markedList]
  refine ⟨?_, ?_⟩
  · rintro ⟨n, hn, hmark⟩
    obtain rfl | ⟨hlo, hhi⟩ | hlo : n = 0 ∨ (1 ≤ n ∧ n ≤ 15) ∨ 16 ≤ n := by omega
    · exact absurd hmark Bool.false_ne_true
    · rw [lpFoldEntry_of_le_15 u hlo hhi, mark_wr_iff_leaves] at hmark
      exact .inl ⟨n, hlo, hhi, hmark⟩
    · rw [lpFoldEntry_of_16_le u hlo, mark_wr_iff_leaves] at hmark
      exact .inr ⟨n, hlo, by omega, hmark⟩
  · rintro (⟨n, hlo, hhi, hleaves⟩ | ⟨n, hlo, hhi, hleaves⟩)
    · exact ⟨n, by omega, by rwa [lpFoldEntry_of_le_15 u hlo hhi, mark_wr_iff_leaves]⟩
    · exact ⟨n, by omega, by rwa [lpFoldEntry_of_16_le u hlo, mark_wr_iff_leaves]⟩

theorem wordAt_amodLp_re {k : Nat} (hk : k < 32) :
    wordAt (amodLp u).re k = (wr (2 * (wordAt (dct3 .n32 (lpFold u).val).val k).toInt)).val := by
  rw [amodLp, wordAt_markedList, if_pos hk]

/-- The imaginary parts of a low-power frame are 0 (R203). -/
theorem wordAt_amodLp_im {k : Nat} (hk : k < 32) : wordAt (amodLp u).im k = 0#32 :=
  List.getD_replicate _ hk

theorem amodLp_mark : (amodLp u).mark = true ↔
    (lpFold u).mark = true ∨ (dct3 .n32 (lpFold u).val).mark = true ∨
      ∃ k, k < 32 ∧ leaves (2 * (wordAt (dct3 .n32 (lpFold u).val).val k).toInt) := by
  simp only [amodLp, Bool.or_eq_true, markedList_wr_mark, or_assoc]

/-- Entry `m` of the sequence x', with its mark (R207). -/
def hqEntry (m : Nat) : Marked Word :=
  if m = 0 then { val := wordAt u 0, mark := false }
  else if m = 63 then { val := wordAt u 32, mark := false }
  else if m % 2 = 1 then { val := wordAt u ((m - 1) / 2 + 1), mark := false }
  else wr (-(wordAt u (63 - (m - 2) / 2)).toInt)

theorem hqSequence_eq : hqSequence u = markedList 64 (hqEntry u) := rfl

theorem hqEntry_odd {n : Nat} (hn : n ≤ 30) :
    hqEntry u (2 * n + 1) = { val := wordAt u (n + 1), mark := false } := by
  have hhalf : (2 * n + 1 - 1) / 2 = n := by omega
  rw [hqEntry, if_neg (by omega), if_neg (by omega), if_pos (by omega), hhalf]

theorem hqEntry_even {n : Nat} (hn : n ≤ 30) : hqEntry u (2 * n + 2) = wr (-(wordAt u (63 - n)).toInt) := by
  have hhalf : (2 * n + 2 - 2) / 2 = n := by omega
  rw [hqEntry, if_neg (by omega), if_neg (by omega), if_neg (by omega), hhalf]

/-- The rule's loop over `n` and its two ends give every entry of the sequence x' (R207). -/
theorem hqEntry_index_cases {m : Nat} (hm : m < 64) :
    m = 0 ∨ m = 63 ∨ (∃ n, n ≤ 30 ∧ m = 2 * n + 1) ∨ ∃ n, n ≤ 30 ∧ m = 2 * n + 2 := by
  obtain heven | hodd := Nat.mod_two_eq_zero_or_one m
  · exact or_iff_not_imp_left.2 fun hm0 => .inr (.inr ⟨m / 2 - 1, by omega, by omega⟩)
  · exact .inr (or_iff_not_imp_left.2 fun hm63 => .inl ⟨m / 2, by omega, by omega⟩)

theorem wordAt_hqSequence {m : Nat} (hm : m < 64) : wordAt (hqSequence u).val m = (hqEntry u m).val := by
  rw [hqSequence_eq, wordAt_markedList, if_pos hm]

/-- The sequence x' is marked by its negations; its other entries are copies (R207). -/
theorem hqSequence_mark : (hqSequence u).mark = true ↔ ∃ n, n ≤ 30 ∧ leaves (-(wordAt u (63 - n)).toInt) := by
  rw [hqSequence_eq, mark_markedList]
  refine ⟨?_, ?_⟩
  · rintro ⟨m, hm, hmark⟩
    obtain rfl | rfl | ⟨n, hn, rfl⟩ | ⟨n, hn, rfl⟩ := hqEntry_index_cases hm
    · exact absurd hmark Bool.false_ne_true
    · exact absurd hmark Bool.false_ne_true
    · rw [hqEntry_odd u hn] at hmark
      exact absurd hmark Bool.false_ne_true
    · rw [hqEntry_even u hn, mark_wr_iff_leaves] at hmark
      exact ⟨n, hn, hmark⟩
  · rintro ⟨n, hn, hleaves⟩
    exact ⟨2 * n + 2, by omega, by rwa [hqEntry_even u hn, mark_wr_iff_leaves]⟩

theorem wordAt_amodHq {k : Nat} (hk : k < 32) :
    wordAt (amodHq u).re k = (wr (2 * (wordAt (dct4 .n64 (hqSequence u).val).val k).toInt)).val ∧
    wordAt (amodHq u).im k = (wr (-2 * (wordAt (dct4 .n64 (hqSequence u).val).val (63 - k)).toInt)).val := by
  rw [amodHq, wordAt_markedList, wordAt_markedList, if_pos hk, if_pos hk]
  exact ⟨rfl, rfl⟩

theorem amodHq_mark : (amodHq u).mark = true ↔
    (hqSequence u).mark = true ∨ (dct4 .n64 (hqSequence u).val).mark = true ∨
      ∃ k, k < 32 ∧ (leaves (2 * (wordAt (dct4 .n64 (hqSequence u).val).val k).toInt) ∨
        leaves (-2 * (wordAt (dct4 .n64 (hqSequence u).val).val (63 - k)).toInt)) := by
  simp only [amodHq, Bool.or_eq_true, markedList_wr_mark, or_assoc, and_or_left, exists_or]

end

end Sys2Proof.Machine

/-! The analysis commands as updates of the state (R91, R203, R208). -/

namespace Sys2Proof.Machine

/-- A construction command on a context of the block runs (R91 step 5). -/
theorem onChannel_of_getElem? {s : State} {i : Instr} {c : BitVec 4} {run : Channel → State} {ch : Channel}
    (hch : s.channels[c.toNat]? = some ch) : onChannel i c s run = .next (run ch) := by
  simp [onChannel, hch]

theorem wordAt_zeroFill (kx : Nat) (r : List Word) {k : Nat} (hk : k < 32) :
    wordAt (zeroFill kx r) k = if k < kx then wordAt r k else 0#32 := by
  rw [zeroFill, wordAt_mapRange, if_pos hk]

/-- The mark of a frame: a windowed sum, or the modulation of the context's mode (R203). -/
theorem analysisFrame_mark (proto : Vector Word 640) (m : Mode) (h : Vector Word 320) :
    (analysisFrame proto m h).mark = true ↔ (awindow proto h).mark = true ∨
      (m = .lp ∧ (amodLp (awindow proto h).val).mark = true) ∨
      (m = .hq ∧ (amodHq (awindow proto h).val).mark = true) := by
  cases m with
  | lp => simp
  | hq => simp

section

variable {s : State} (c kx : Nat) (a : AnaCtx) {k : Nat}

theorem entry_analysisSlot_of_lt (hk : k < 32) (hkx : k < kx) :
    entry (analysisSlot c kx s a).yre k =
      wordAt (analysisFrame s.proto a.mode (ahist a.hist s.xre)).re k ∧
    entry (analysisSlot c kx s a).yim k =
      wordAt (analysisFrame s.proto a.mode (ahist a.hist s.xre)).im k := by
  obtain ⟨hre, him⟩ := entry_analysisSlot (s := s) c kx a hk
  rw [hre, him, wordAt_zeroFill _ _ hk, wordAt_zeroFill _ _ hk, if_pos hkx, if_pos hkx]
  exact ⟨rfl, rfl⟩

theorem entry_analysisSlot_of_kx_le (hk : k < 32) (hkx : kx ≤ k) :
    entry (analysisSlot c kx s a).yre k = 0#32 ∧ entry (analysisSlot c kx s a).yim k = 0#32 := by
  have hfill := Nat.not_lt.2 hkx
  obtain ⟨hre, him⟩ := entry_analysisSlot (s := s) c kx a hk
  rw [hre, him, wordAt_zeroFill _ _ hk, wordAt_zeroFill _ _ hk, if_neg hfill, if_neg hfill]
  exact ⟨rfl, rfl⟩

/-- A slot leaves the result words from 32 on (R203). -/
theorem entry_analysisSlot_of_le (hk : 32 ≤ k) (hk64 : k < 64) :
    entry (analysisSlot c kx s a).yre k = entry s.yre k ∧ entry (analysisSlot c kx s a).yim k = entry s.yim k := by
  simp [analysisSlot, entry_overwrite _ _ _ _ hk64, Nat.not_lt.2 hk]

theorem analysisSlot_ovf : (analysisSlot c kx s a).ovf =
    (s.ovf || (analysisFrame s.proto a.mode (ahist a.hist s.xre)).mark) := rfl

/-- A slot is seen in `STATUS` and in the first 32 words of the result buffers only (R63). -/
theorem readsAsBefore_analysisSlot {ch : Channel} (hch : s.channels[c]? = some ch) :
    s.ReadsAsBefore (fun off => off = Config.offStatus ∨ bufferOffsets Config.offYre 32 off ∨
      bufferOffsets Config.offYim 32 off) (analysisSlot c kx s ch.ana) := by
  intro off htouched
  calc busRead (analysisSlot c kx s ch.ana) off
      = busRead (s.setAna c { ch.ana with hist := ahist ch.ana.hist s.xre }) off :=
        readsAsBefore_of_results (s := s.setAna c { ch.ana with hist := ahist ch.ana.hist s.xre })
          (yre := (analysisSlot c kx s ch.ana).yre) (yim := (analysisSlot c kx s ch.ana).yim)
          (ovf := (analysisSlot c kx s ch.ana).ovf)
          (fun _ hk hk64 => (entry_analysisSlot_of_le c kx ch.ana hk hk64).1)
          (fun _ hk hk64 => (entry_analysisSlot_of_le c kx ch.ana hk hk64).2) off htouched
    _ = busRead s off := s.busRead_setAna_of_sameBits c { ch.ana with hist := ahist ch.ana.hist s.xre } hch rfl rfl off

end

end Sys2Proof.Machine

/-! The statements on the analysis bank (spec/43_qmf_analysis.md). -/

namespace Sys2Proof.Machine

/-- Settles O32: the ten slots are those before the slot of the sample, that slot, and the `t` slots after it. -/
theorem tenSlotsReplaceTheAnalysisHistory : Obligations.TenSlotsReplaceTheAnalysisHistory := by
  intro h xs hlen t j ht hj x hx
  obtain ⟨hslot, rfl⟩ := List.getElem?_eq_some_iff.1 hx
  have hsplit : xs = xs.take (9 - t) ++ xs[9 - t] :: xs.drop (9 - t + 1) := by
    rw [← List.drop_eq_getElem_cons hslot, List.take_append_drop]
  have hlater : (xs.drop (9 - t + 1)).length = t := by rw [List.length_drop]; omega
  calc entry (xs.foldl ahist h) (32 * t + (31 - j))
      = entry ((xs.drop (9 - t + 1)).foldl ahist (ahist ((xs.take (9 - t)).foldl ahist h) xs[9 - t]))
          (32 * (xs.drop (9 - t + 1)).length + (31 - j)) := by
        rw [hlater, ← List.foldl_cons, ← List.foldl_append, ← hsplit]
    _ = entry (ahist ((xs.take (9 - t)).foldl ahist h) xs[9 - t]) (31 - j) := entry_foldl_ahist _ _ (by omega)
    _ = entry xs[9 - t] j := entry_ahist_front _ _ hj

/-- Settles O25: the history by the rules of `ahist`, the bands by those of the two stores, the frame by those of
replacing one analysis context. -/
theorem qmfaStoresOneFrame : Obligations.QmfaStoresOneFrame := by
  intro s c kx ch hch hvalid hkx
  refine ⟨analysisSlot c.toNat kx.toNat s ch.ana, ahist ch.ana.hist s.xre, onSlot_of_valid hch hkx hvalid,
    s.setAna_getElem?_self _ _ hch, fun j hj => entry_ahist_front _ _ hj, fun i hlo hi => ?_,
    fun k hk => ?_, fun k hlo hk => entry_analysisSlot_of_kx_le _ _ _ hk hlo,
    fun k hk hk64 => entry_analysisSlot_of_le _ _ _ hk hk64, ?_, s.sameOtherChannels_setAna _ _, rfl,
    readsAsBefore_analysisSlot _ _ hch⟩
  · have hplace := entry_ahist_add ch.ana.hist s.xre (i := i - 32) (by omega)
    rwa [Nat.add_sub_cancel' hlo] at hplace
  · have hk32 := hk.trans_le hkx
    obtain ⟨hre, him⟩ := entry_analysisSlot_of_lt (s := s) c.toNat kx.toNat ch.ana hk32 hk
    rw [hre, him]
    refine ⟨fun hmode => ?_, fun hmode => ?_⟩
    · rw [hmode, analysisFrame_lp]
      exact ⟨rfl, wordAt_amodLp_im (awindow s.proto (ahist ch.ana.hist s.xre)).val hk32⟩
    · rw [hmode, analysisFrame_hq]
      exact ⟨rfl, rfl⟩
  · rw [analysisSlot_ovf, Bool.or_eq_true, analysisFrame_mark, awindow_mark]
    rfl

/-- Settles O33: the windowed sums, then the two modulations, each by its entries and its mark. -/
theorem analysisStepsFollowTheirFormulas : Obligations.AnalysisStepsFollowTheirFormulas := by
  refine ⟨fun proto h => ⟨fun n hn => ?_, awindow_mark proto h⟩, fun u => ?_, fun u => ?_⟩
  · rw [awindow_eq, wordAt_markedList, if_pos hn]
    rfl
  · refine ⟨wordAt_lpFold u (by decide), fun n hlo hhi => ?_, fun n hlo hhi => ?_,
      fun k hk => ⟨wordAt_amodLp_re u hk, wordAt_amodLp_im u hk⟩, ?_⟩
    · rw [wordAt_lpFold u (by omega), lpFoldEntry_of_le_15 u hlo hhi]
    · rw [wordAt_lpFold u (by omega), lpFoldEntry_of_16_le u hlo]
    · rw [amodLp_mark, lpFold_mark, or_assoc]
  · refine ⟨wordAt_hqSequence u (by decide), fun n hn => ⟨?_, ?_⟩, wordAt_hqSequence u (by decide),
      fun k hk => wordAt_amodHq u hk, ?_⟩
    · rw [wordAt_hqSequence u (by omega), hqEntry_odd u hn]
    · rw [wordAt_hqSequence u (by omega), hqEntry_even u hn]
    · rw [amodHq_mark, hqSequence_mark]

/-- Settles O23: the new context is `anaInit m`, and the frame is that of replacing one analysis context. -/
theorem ainitConstructsTheContext : Obligations.AinitConstructsTheContext := by
  intro s c m ch hch
  exact ⟨_, anaInit m, onChannel_of_getElem? hch, s.setAna_getElem?_self _ _ hch,
    fun i hi => by simp [anaInit], rfl, rfl, s.sameOtherChannels_setAna _ _, rfl, s.readsAsBefore_setAna _ _⟩

end Sys2Proof.Machine

/-! Reads of the context registers after one synthesis context is replaced (R36 to R38, R63). -/

namespace Sys2Proof.Machine

section

variable (s : State) (c : Nat) (y : SynCtx)

theorem State.sameOtherChannels_setSyn : s.SameOtherChannels c (s.setSyn c y) :=
  ⟨s.nch_setSyn c y, fun d hd => by simp [hd.symm]⟩

theorem State.setSyn_getElem?_self {ch : Channel} (hch : s.channels[c]? = some ch) :
    (s.setSyn c y).channels[c]? = some { ch with syn := y } := by
  rw [State.setSyn_getElem?, hch, Option.map_some, if_pos rfl]

/-- A register half of analysis contexts does not show `S[c]`. -/
theorem contextBits_setSyn_ana (p : AnaCtx → Bool) :
    contextBits (fun ch => p ch.ana) (s.setSyn c y).channels = contextBits (fun ch => p ch.ana) s.channels :=
  contextBits_modify fun _ _ => rfl

/-- A register half of synthesis contexts shows of `S[c]` its own bit only. -/
theorem contextBits_setSyn_syn {ch : Channel} (hch : s.channels[c]? = some ch) {p : SynCtx → Bool}
    (hp : p y = p ch.syn) :
    contextBits (fun ch => p ch.syn) (s.setSyn c y).channels = contextBits (fun ch => p ch.syn) s.channels :=
  contextBits_modify fun ch' hch' => by rw [Option.some.inj (hch'.symm.trans hch), hp]

/-- `S[c]` is seen in the three registers of the contexts only (R63). -/
theorem State.readsAsBefore_setSyn :
    s.ReadsAsBefore (fun off => off = Config.offCtxValid ∨ off = Config.offCtxMode ∨ off = Config.offVidx)
      (s.setSyn c y) := by
  intro off htouched
  obtain ⟨hvalid, hrest⟩ := not_or.1 htouched
  obtain ⟨hmode, hvidx⟩ := not_or.1 hrest
  exact busRead_with_channels (by simp) (absurd · hvalid) (absurd · hmode) (absurd · hvidx)

/-- The history of a synthesis context is not readable: with the valid bit and the mode kept, every offset reads as
before, `VIDX` where `vidx` is kept too (R36 to R38, R63). -/
theorem State.busRead_setSyn_of_sameBits {ch : Channel} (hch : s.channels[c]? = some ch)
    (hvalid : y.valid = ch.syn.valid) (hmode : y.mode = ch.syn.mode) {off : Nat}
    (hvidx : off = Config.offVidx → y.vidx = ch.syn.vidx) :
    busRead (s.setSyn c y) off = busRead s off := by
  have hvalidWord := congrArg₂ (fun m n => BitVec.ofNat 32 (m + 2 ^ 16 * n))
    (contextBits_setSyn_ana s c y (·.valid)) (contextBits_setSyn_syn s c y hch (p := (·.valid)) hvalid)
  have hmodeWord := congrArg₂ (fun m n => BitVec.ofNat 32 (m + 2 ^ 16 * n))
    (contextBits_setSyn_ana s c y (·.mode.toBit))
    (contextBits_setSyn_syn s c y hch (p := (·.mode.toBit)) (congrArg Mode.toBit hmode))
  exact busRead_with_channels (by simp) (fun _ => hvalidWord) (fun _ => hmodeWord) fun hoff =>
    congrArg (BitVec.ofNat 32) (contextBits_setSyn_syn s c y hch (p := fun y => decide (y.vidx = 1))
      (congrArg (fun v => decide (v = 1)) (hvidx hoff)))

end

/-- A change of `YRE` and `OVF` is seen in `YRE` and `STATUS` only (R63). -/
theorem readsAsBefore_of_yre (s : State) (yre : Vector Word 64) (ovf : Bool) :
    s.ReadsAsBefore (fun off => off = Config.offStatus ∨ bufferOffsets Config.offYre 64 off)
      { s with yre := yre, ovf := ovf } := by
  intro off htouched
  obtain ⟨hstatus, hbuf⟩ := not_or.1 htouched
  have hyre : ¬ (Config.offYre ≤ off ∧ off < Config.offYre + 0x100) := hbuf
  calc busRead { s with yre := yre, ovf := ovf } off
      = busRead { s with yre := yre } off := busRead_with_flags { s with yre := yre } s.fault ovf s.errcode hstatus
    _ = busRead s off := by
      simp only [busRead, if_neg hyre]
      rfl

end Sys2Proof.Machine

/-! The sequences that a synthesis slot hands to the kernel, and what it makes of the results (R234, R235, R238,
R239). -/

namespace Sys2Proof.Machine

open Sys2Proof.Stating

section

variable (x : Vector Word 64) (nb : Nat) {k : Nat} (hk : k < 64)

include hk

theorem wordAt_hqX1 : wordAt (hqX1 x nb) k = if k < nb then rshr (entry x k) 6 else 0#32 := by
  rw [hqX1, wordAt_mapRange, if_pos hk]

/-- Entry `63 - k` of `x2` is of band `k`. -/
theorem wordAt_hqX2_reversed : wordAt (hqX2 x nb) (63 - k) = if k < nb then rshr (entry x k) 6 else 0#32 := by
  have hback : 63 - (63 - k) = k := by omega
  rw [hqX2, wordAt_mapRange, if_pos (by omega), hback]

theorem wordAt_lpX : wordAt (lpX x nb) k = if k < nb then rshr (entry x k) 5 else 0#32 := by
  rw [lpX, wordAt_mapRange, if_pos hk]

end

section

variable (y1 y2 : List Word)

/-- The exact sum that the combination stores at `i` (R235). -/
def hqCombineSum (i : Nat) : Int :=
  let s := fun n : Nat => if n % 2 = 0 then (wordAt y2 n).toInt else -(wordAt y2 n).toInt
  if i < 64 then s i - (wordAt y1 i).toInt else s (127 - i) + (wordAt y1 (127 - i)).toInt

theorem hqCombine_eq : hqCombine y1 y2 = markedList 128 fun i => wr (hqCombineSum y1 y2 i) := by
  refine congrArg (markedList 128) (funext fun i => ?_)
  exact (apply_ite wr ..).symm

theorem hqCombineSum_front {n : Nat} (hn : n < 64) : hqCombineSum y1 y2 n =
    (if n % 2 = 0 then (wordAt y2 n).toInt else -(wordAt y2 n).toInt) - (wordAt y1 n).toInt := if_pos hn

/-- The second half of the block is stored from its end. -/
theorem hqCombineSum_back {n : Nat} (hn : n < 64) : hqCombineSum y1 y2 (127 - n) =
    (if n % 2 = 0 then (wordAt y2 n).toInt else -(wordAt y2 n).toInt) + (wordAt y1 n).toInt := by
  have hback : 127 - (127 - n) = n := by omega
  rw [hqCombineSum, if_neg (by omega), hback]

theorem wordAt_hqCombine {i : Nat} (hi : i < 128) :
    wordAt (hqCombine y1 y2).val i = (wr (hqCombineSum y1 y2 i)).val := by
  rw [hqCombine_eq, wordAt_markedList, if_pos hi]

/-- The two sums of each `n` are the 128 sums of the block. -/
theorem hqCombine_mark : (hqCombine y1 y2).mark = true ↔
    ∃ n, n < 64 ∧ (leaves (hqCombineSum y1 y2 n) ∨ leaves (hqCombineSum y1 y2 (127 - n))) := by
  rw [hqCombine_eq, markedList_wr_mark]
  refine ⟨?_, ?_⟩
  · rintro ⟨i, hi, hleaves⟩
    by_cases hfront : i < 64
    · exact ⟨i, hfront, .inl hleaves⟩
    · have hback : 127 - (127 - i) = i := by omega
      exact ⟨127 - i, by omega, .inr (hback.symm ▸ hleaves)⟩
  · rintro ⟨n, hn, hleaves | hleaves⟩
    · exact ⟨n, by omega, hleaves⟩
    · exact ⟨127 - n, by omega, hleaves⟩

end

/-- Entry `k` of the sequence `yy`, with its mark (R238). -/
def lpYyEntry (x : List Word) (k : Nat) : Marked Word :=
  if k % 2 = 0 then wr (-(wordAt x k).toInt) else { val := wordAt x k, mark := false }

theorem lpYy_eq (x : List Word) : lpYy x = markedList 64 (lpYyEntry x) := rfl

theorem wordAt_lpYy (x : List Word) {k : Nat} (hk : k < 64) :
    wordAt (lpYy x).val k = if k % 2 = 0 then (wr (-(wordAt x k).toInt)).val else wordAt x k := by
  rw [lpYy_eq, wordAt_markedList, if_pos hk, lpYyEntry, apply_ite Marked.val]

/-- A word that a shift by 5 has scaled can be negated (R238). -/
theorem not_leaves_neg_rshr (v : Word) : ¬ leaves (-(rshr v 5).toInt) := by
  have hlo : -2147483648 ≤ v.toInt := BitVec.le_toInt v
  have hhi : v.toInt < 2147483648 := BitVec.toInt_lt
  have hnear := roundShift_nearest v.toInt (s := 5) (by decide)
  rw [toInt_rshr v (by decide), leaves]
  omega

/-- The negations of `yy` never overflow, since `x` is scaled or 0 (R238). -/
theorem lpYy_lpX_mark (re : Vector Word 64) (nb : Nat) : (lpYy (lpX re nb)).mark = false := by
  refine Bool.eq_false_iff.2 fun hmark => ?_
  rw [lpYy_eq, mark_markedList] at hmark
  obtain ⟨k, hk, hentry⟩ := hmark
  rw [lpYyEntry, wordAt_lpX re nb hk] at hentry
  split_ifs at hentry with hparity hband
  · exact not_leaves_neg_rshr _ ((mark_wr_iff_leaves _).1 hentry)
  · exact not_leaves_zero ((mark_wr_iff_leaves _).1 hentry)

section

variable (d t : List Word) {n : Nat}

theorem wordAt_lpScatter_middle (hn : n < 64) : wordAt (lpScatter d t) (32 + n) = wordAt d n := by
  rw [lpScatter, wordAt_mapRange, if_pos (by omega), if_neg (by omega), if_pos (by omega), Nat.add_sub_cancel_left]

theorem wordAt_lpScatter_front (hn : n < 32) : wordAt (lpScatter d t) (31 - n) = wordAt d (n + 1) := by
  have hback : 31 - (31 - n) = n := by omega
  rw [lpScatter, wordAt_mapRange, if_pos (by omega), if_pos (by omega), hback]

theorem wordAt_lpScatter_back (hlo : 1 ≤ n) (hhi : n ≤ 31) : wordAt (lpScatter d t) (96 + n) = wordAt t (n - 1) := by
  rw [lpScatter, wordAt_mapRange, if_pos (by omega), if_neg (by omega), if_neg (by omega), if_neg (by omega),
    Nat.add_sub_cancel_left]

end

end Sys2Proof.Machine

/-! The histories of a synthesis context (R236, R240), and the outputs computed from them (R237, R241). -/

namespace Sys2Proof.Machine

open Sys2Proof.Stating

/-- The other one of the two regions (R236). -/
theorem val_other_region (a : Fin 2) : (1 - a).val = (a.val + 1) % 2 := by
  revert a
  decide

section

variable (h : Vector Word 1280) (a : Fin 2) (v : List Word) {r i : Nat}

/-- Every older word is 64 places up in its region. -/
theorem entry_hqHistory_add (hr : r < 2) (hi : 64 + i < 640) :
    entry (hqHistory h a v) (640 * r + (64 + i)) = entry h (640 * r + i) := by
  have hplace : 640 * r + (64 + i) - 64 = 640 * r + i := by omega
  rw [hqHistory, entry_tabulate, if_pos (by omega), if_pos (by omega), hplace]

/-- Region `a` receives the first half of the block, the other region the second half. -/
theorem entry_hqHistory_front (hr : r < 2) (hi : i < 64) :
    entry (hqHistory h a v) (640 * r + i) = wordAt v (if r = a.val then i else 64 + i) := by
  have hregion : (640 * r + i) / 640 = r := by omega
  have hplace : (640 * r + i) % 640 = i := by omega
  rw [hqHistory, entry_tabulate, if_pos (by omega)]
  simp only [hregion, hplace, if_neg (Nat.not_le.2 hi), apply_ite (wordAt v)]

theorem hqSlots_nil : hqSlots h a [] = (h, a) := by rw [hqSlots.eq_def]

theorem hqSlots_cons (vs : List (List Word)) :
    hqSlots h a (v :: vs) = hqSlots (hqHistory h a v) (1 - a) vs := by rw [hqSlots.eq_def]

/-- A history after a sequence of slots, cut in two. -/
theorem hqSlots_append (us vs : List (List Word)) :
    hqSlots h a (us ++ vs) = hqSlots (hqSlots h a us).1 (hqSlots h a us).2 vs := by
  induction us generalizing h a with
  | nil => rw [List.nil_append, hqSlots_nil]
  | cons u us ih => rw [List.cons_append, hqSlots_cons, hqSlots_cons, ih]

/-- `vidx` alternates. -/
theorem val_hqSlots_vidx (vs : List (List Word)) : (hqSlots h a vs).2.val = (a.val + vs.length) % 2 := by
  induction vs generalizing h a with
  | nil => rw [hqSlots_nil, List.length_nil, Nat.add_zero, Nat.mod_eq_of_lt a.isLt]
  | cons v vs ih =>
    have hother := val_other_region a
    rw [hqSlots_cons, ih, List.length_cons]
    omega

/-- A word moves up by 64 places of its region in each slot, as long as it is in the history. -/
theorem entry_hqSlots (vs : List (List Word)) (hr : r < 2) (hi : 64 * vs.length + i < 640) :
    entry (hqSlots h a vs).1 (640 * r + (64 * vs.length + i)) = entry h (640 * r + i) := by
  induction vs generalizing h a i with
  | nil => rw [hqSlots_nil, List.length_nil, Nat.mul_zero, Nat.zero_add]
  | cons v vs ih =>
    rw [List.length_cons] at hi ⊢
    have hplace : 64 * (vs.length + 1) + i = 64 * vs.length + (64 + i) := by omega
    rw [hqSlots_cons, hplace, ih _ _ (by omega), entry_hqHistory_add _ _ _ hr (by omega)]

/-- A block goes to the front of region `r` as `vidx` then is, and the later slots move it up. -/
theorem entry_hqSlots_append_cons (us vs : List (List Word)) (hr : r < 2) (hi : i < 64) (hvs : vs.length < 10) :
    entry (hqSlots h a (us ++ v :: vs)).1 (640 * r + (64 * vs.length + i)) =
      wordAt v (if r = (a.val + us.length) % 2 then i else 64 + i) := by
  rw [hqSlots_append, hqSlots_cons, entry_hqSlots _ _ vs hr (by omega), entry_hqHistory_front _ _ _ hr hi,
    val_hqSlots_vidx]

/-- The older words of an LP history are 128 places up. -/
theorem entry_lpHistory_of_le (hlo : 128 ≤ i) (hi : i < 1280) : entry (lpHistory h v) i = entry h (i - 128) := by
  rw [lpHistory, entry_tabulate, if_pos hi, if_neg (by omega)]

theorem entry_lpHistory_front (hi : i < 128) : entry (lpHistory h v) i = wordAt v i := by
  rw [lpHistory, entry_tabulate, if_pos (by omega), if_pos hi]

end

section

variable (proto : Vector Word 640) (h : Vector Word 1280) (a : Fin 2)

/-- The sum of ten products over region `a` that an HQ output rounds (R237). -/
def hqOutputSum (k : Nat) : Int :=
  ∑ j ∈ Finset.range 10, (entry h (640 * a.val + (64 * j + k))).toInt * (entry proto (64 * j + k)).toInt

theorem hqOutput_eq : hqOutput proto h a = markedList 64 fun k => rnd (hqOutputSum proto h a k) coefBits := by
  simp only [hqOutput, Nat.add_assoc]
  rfl

theorem wordAt_hqOutput {k : Nat} (hk : k < 64) :
    wordAt (hqOutput proto h a).val k = (rnd (hqOutputSum proto h a k) coefBits).val := by
  rw [hqOutput_eq, wordAt_markedList, if_pos hk]

theorem hqOutput_mark : (hqOutput proto h a).mark = true ↔ ∃ k, k < 64 ∧ roundsOut (hqOutputSum proto h a k) := by
  simp only [hqOutput_eq, mark_markedList, mark_rnd_iff_roundsOut]

/-- The sum of ten products that an LP output rounds (R241). -/
def lpOutputSum (k : Nat) : Int :=
  ∑ j ∈ Finset.range 5, ((entry h (256 * j + k)).toInt * (entry proto (128 * j + k)).toInt
    + (entry h (256 * j + 192 + k)).toInt * (entry proto (128 * j + 64 + k)).toInt)

theorem lpOutput_eq : lpOutput proto h = markedList 64 fun k => rnd (lpOutputSum proto h k) coefBits := rfl

theorem wordAt_lpOutput {k : Nat} (hk : k < 64) :
    wordAt (lpOutput proto h).val k = (rnd (lpOutputSum proto h k) coefBits).val := by
  rw [lpOutput_eq, wordAt_markedList, if_pos hk]

theorem lpOutput_mark : (lpOutput proto h).mark = true ↔ ∃ k, k < 64 ∧ roundsOut (lpOutputSum proto h k) := by
  simp only [lpOutput_eq, mark_markedList, mark_rnd_iff_roundsOut]

end

end Sys2Proof.Machine

/-! The synthesis slot as an update of the state (R91, R233), and what it takes of the operands (R244). -/

namespace Sys2Proof.Machine

section

variable {s : State} (c nb : Nat)

theorem synthesisResult_of_hq {y : SynCtx} (hmode : y.mode = .hq) :
    synthesisResult s nb y = synHq s.proto y.hist y.vidx s.xre s.xim nb := by
  simp only [synthesisResult, hmode]

theorem synthesisResult_of_lp {y : SynCtx} (hmode : y.mode = .lp) :
    synthesisResult s nb y = synLp s.proto y.hist s.xre nb := by
  simp only [synthesisResult, hmode]

theorem nextVidx_of_hq {y : SynCtx} (hmode : y.mode = .hq) : nextVidx y = 1 - y.vidx := by
  simp only [nextVidx, hmode]

/-- A `QMFS` with its checks passed is a slot (R91 step 7). -/
theorem exec_qmfs_of_valid {c : BitVec 4} {nb : BitVec 8} {ch : Channel} (hch : s.channels[c.toNat]? = some ch)
    (hvalid : ch.syn.valid = true) (hnb : nb.toNat ≤ 64) :
    exec (.qmfs c nb) s = .next (synthesisSlot c.toNat nb.toNat s ch.syn) := onSlot_of_valid hch hnb hvalid

/-- A slot changes its context, `YRE` and `OVF` (R233). -/
theorem synthesisSlot_frame (y : SynCtx) : synthesisSlot c nb s y =
    { s with channels := (synthesisSlot c nb s y).channels, yre := (synthesisSlot c nb s y).yre,
             ovf := (synthesisSlot c nb s y).ovf } := by
  rw [synthesisSlot_eq]
  rfl

theorem synthesisSlot_ovf (y : SynCtx) : (synthesisSlot c nb s y).ovf = (s.ovf || (synthesisResult s nb y).mark) := by
  rw [synthesisSlot_eq]
  rfl

theorem synthesisSlot_yre (y : SynCtx) :
    (synthesisSlot c nb s y).yre = overwrite s.yre 64 (synthesisResult s nb y).out := by
  rw [synthesisSlot_eq]
  rfl

theorem synthesisSlot_channels (y : SynCtx) : (synthesisSlot c nb s y).channels =
    (s.setSyn c { y with hist := (synthesisResult s nb y).hist, vidx := nextVidx y }).channels := by
  rw [synthesisSlot_eq]
  rfl

theorem synthesisSlot_getElem?_self {ch : Channel} (hch : s.channels[c]? = some ch) :
    (synthesisSlot c nb s ch.syn).channels[c]? =
      some { ch with syn := { ch.syn with hist := (synthesisResult s nb ch.syn).hist, vidx := nextVidx ch.syn } } := by
  rw [synthesisSlot_channels]
  exact s.setSyn_getElem?_self c _ hch

theorem sameOtherChannels_synthesisSlot (y : SynCtx) : s.SameOtherChannels c (synthesisSlot c nb s y) := by
  rw [synthesisSlot_eq]
  exact s.sameOtherChannels_setSyn c _

/-- A slot is seen in `STATUS`, in `YRE` and, where it moves `vidx`, in `VIDX` only (R63). -/
theorem busRead_synthesisSlot {ch : Channel} (hch : s.channels[c]? = some ch) {off : Nat}
    (hoff : ¬ (off = Config.offStatus ∨ bufferOffsets Config.offYre 64 off))
    (hvidx : off = Config.offVidx → nextVidx ch.syn = ch.syn.vidx) :
    busRead (synthesisSlot c nb s ch.syn) off = busRead s off := by
  have hctx := s.busRead_setSyn_of_sameBits c
    { ch.syn with hist := (synthesisResult s nb ch.syn).hist, vidx := nextVidx ch.syn } hch rfl rfl hvidx
  rw [synthesisSlot_eq]
  exact (readsAsBefore_of_yre (s.setSyn c _) _ _ off hoff).trans hctx

/-- The mark of an HQ slot (R234 to R237). -/
theorem synHq_mark (proto : Vector Word 640) (h : Vector Word 1280) (a : Fin 2) (xre xim : Vector Word 64) :
    (synHq proto h a xre xim nb).mark = true ↔
      (dct4 .n64 (hqX1 xre nb)).mark = true ∨ (dct4 .n64 (hqX2 xim nb)).mark = true ∨
      (hqCombine (dct4 .n64 (hqX1 xre nb)).val (dct4 .n64 (hqX2 xim nb)).val).mark = true ∨
      (hqOutput proto (synHq proto h a xre xim nb).hist a).mark = true := by
  simp only [synHq, Bool.or_eq_true, or_assoc]

/-- The mark of an LP slot: the negations of `yy` have no part in it (R238 to R241). -/
theorem synLp_mark (proto : Vector Word 640) (h : Vector Word 1280) (xre : Vector Word 64) :
    (synLp proto h xre nb).mark = true ↔
      (dct2 .n64 (lpX xre nb)).mark = true ∨ (dst2 .n64 (lpYy (lpX xre nb)).val).mark = true ∨
      (lpOutput proto (synLp proto h xre nb).hist).mark = true := by
  simp only [synLp, lpYy_lpX_mark, Bool.false_or, Bool.or_eq_true, or_assoc]

end

theorem rshr_zero {n : Nat} (hn : 1 ≤ n) : rshr 0#32 n = 0#32 := by
  obtain ⟨hlo, hhi⟩ := roundShift_nearest 0 hn
  have hpow : (0 : Int) < 2 ^ n := by positivity
  have hzero : roundShift 0 n = 0 := by
    have hlt : roundShift 0 n < 1 := by nlinarith
    have hgt : -1 < roundShift 0 n := by nlinarith
    omega
  rw [rshr, BitVec.toInt_zero, hzero]
  rfl

section

variable {x x' : Vector Word 64} {nb : Nat}
  (hx : ∀ i, i < 64 → entry x' i = if i < nb then entry x i else 0#32)

include hx

/-- A scaled band of the masked operands with the whole buffer taken. -/
theorem scaled_of_masked {k n : Nat} (hk : k < 64) (hn : 1 ≤ n) :
    (if k < 64 then rshr (entry x' k) n else 0#32) = if k < nb then rshr (entry x k) n else 0#32 := by
  rw [if_pos hk, hx k hk, apply_ite (rshr · n), rshr_zero hn]

theorem hqX1_of_masked : hqX1 x' 64 = hqX1 x nb :=
  List.map_congr_left fun _ hk => scaled_of_masked hx (List.mem_range.1 hk) (by decide)

theorem hqX2_of_masked : hqX2 x' 64 = hqX2 x nb :=
  List.map_congr_left fun k _ => scaled_of_masked hx (by omega) (by decide)

theorem lpX_of_masked : lpX x' 64 = lpX x nb :=
  List.map_congr_left fun _ hk => scaled_of_masked hx (List.mem_range.1 hk) (by decide)

end

/-- A slot reads its operands through the sequences of step 1 only (R234, R238). -/
theorem synthesisResult_of_masked {s : State} {x z : Vector Word 64} {nb : Nat}
    (hx : ∀ i, i < 64 → entry x i = if i < nb then entry s.xre i else 0#32)
    (hz : ∀ i, i < 64 → entry z i = if i < nb then entry s.xim i else 0#32) (y : SynCtx) :
    synthesisResult { s with xre := x, xim := z } 64 y = synthesisResult s nb y := by
  cases hmode : y.mode with
  | hq => simp only [synthesisResult_of_hq _ hmode, synHq, hqX1_of_masked hx, hqX2_of_masked hz]
  | lp => simp only [synthesisResult_of_lp _ hmode, synLp, lpX_of_masked hx]

end Sys2Proof.Machine

/-! The statements on the synthesis bank (spec/44_qmf_synthesis.md). -/

namespace Sys2Proof.Machine

open Sys2Proof.Stating

/-- Settles O24: the new context is `synInit m`, and the frame is that of replacing one synthesis context. -/
theorem sinitConstructsTheContext : Obligations.SinitConstructsTheContext := by
  intro s c m ch hch
  exact ⟨_, synInit m, onChannel_of_getElem? hch, s.setSyn_getElem?_self _ _ hch,
    fun i hi => by simp [synInit], rfl, rfl, rfl, s.sameOtherChannels_setSyn _ _, rfl, s.readsAsBefore_setSyn _ _⟩

/-- Settles O34: the sequences, the combination and the scatter, each by its entries. -/
theorem synthesisStepsFollowTheirFormulas : Obligations.SynthesisStepsFollowTheirFormulas := by
  refine ⟨fun re im nb k hk => ⟨wordAt_hqX1 re nb hk, wordAt_hqX2_reversed im nb hk, wordAt_lpX re nb hk⟩,
    fun y1 y2 => ⟨fun n hn => ?_, ?_⟩, fun x k hk => wordAt_lpYy x hk, lpYy_lpX_mark,
    fun d t => ⟨fun n hn => wordAt_lpScatter_middle d t hn, fun n hn => wordAt_lpScatter_front d t hn, rfl,
      fun n hlo hhi => wordAt_lpScatter_back d t hlo hhi⟩⟩
  · rw [← hqCombineSum_front y1 y2 hn, ← hqCombineSum_back y1 y2 hn]
    exact ⟨wordAt_hqCombine y1 y2 (by omega), wordAt_hqCombine y1 y2 (by omega)⟩
  · refine (hqCombine_mark y1 y2).trans (exists_congr fun n => and_congr_right fun hn => ?_)
    rw [hqCombineSum_front y1 y2 hn, hqCombineSum_back y1 y2 hn]

/-- Settles O35: the block of age `j` went to the front of a region when `vidx` was `a + 9 - j`, and the `j` slots after
it moved it up. -/
theorem hqRegionAlternatesTheHalvesOfTenSlots : Obligations.HqRegionAlternatesTheHalvesOfTenSlots := by
  intro h a vs hlen
  have hvidx : (hqSlots h a vs).2 = a := Fin.ext (by rw [val_hqSlots_vidx, hlen]; omega)
  refine ⟨hvidx, fun j k hj hk v hv => ?_⟩
  obtain ⟨hslot, rfl⟩ := List.getElem?_eq_some_iff.1 hv
  have hsplit : vs = vs.take (9 - j) ++ vs[9 - j] :: vs.drop (9 - j + 1) := by
    rw [← List.drop_eq_getElem_cons hslot, List.take_append_drop]
  have hlater : (vs.drop (9 - j + 1)).length = j := by rw [List.length_drop]; omega
  have hearlier : (vs.take (9 - j)).length = 9 - j := List.length_take_of_le (by omega)
  have hentry := entry_hqSlots_append_cons h a vs[9 - j] (vs.take (9 - j)) (vs.drop (9 - j + 1))
    (1 - a).isLt hk (by omega)
  rw [← hsplit, hlater, hearlier] at hentry
  have hregion : (1 - a).val = (a.val + (9 - j)) % 2 ↔ j % 2 = 0 := by
    rw [val_other_region]
    omega
  rw [hvidx, hentry]
  simp only [hregion]

/-- Settles O36: both slots store the same result in the same places. -/
theorem bandCountMasksTheOperands : Obligations.BandCountMasksTheOperands := by
  intro s s' c nb ch hch hvalid hnb hs hmask
  obtain ⟨x, z, rfl⟩ : ∃ x z, s' = { s with xre := x, xim := z } := ⟨_, _, hs⟩
  have hresult : synthesisResult { s with xre := x, xim := z } (64#8).toNat ch.syn =
      synthesisResult s nb.toNat ch.syn :=
    synthesisResult_of_masked (fun i hi => (hmask i hi).1) (fun i hi => (hmask i hi).2) ch.syn
  refine ⟨_, _, exec_qmfs_of_valid hch hvalid hnb, exec_qmfs_of_valid hch hvalid (by decide), ?_, ?_, ?_⟩
  · rw [synthesisSlot_yre, synthesisSlot_yre, hresult]
  · rw [synthesisSlot_ovf, synthesisSlot_ovf, hresult]
  · rw [synthesisSlot_channels, synthesisSlot_channels, hresult]
    rfl

/-- Settles O26: the history by the rules of `hqHistory`, the outputs by those of `hqOutput`, the frame by that of a
slot. -/
theorem qmfsHqStoresOneSlot : Obligations.QmfsHqStoresOneSlot := by
  intro s c nb ch hch hvalid hmode hnb a y1 y2 v
  have hresult := synthesisResult_of_hq (s := s) nb.toNat hmode
  have hother := val_other_region ch.syn.vidx
  refine ⟨synthesisSlot c.toNat nb.toNat s ch.syn, hqHistory ch.syn.hist ch.syn.vidx v.val, 1 - ch.syn.vidx,
    exec_qmfs_of_valid hch hvalid hnb, hother, ?_, fun r i hr hlo hi => ?_, fun i hi => ⟨?_, ?_⟩, fun k hk => ?_, ?_,
    sameOtherChannels_synthesisSlot _ _ _, synthesisSlot_frame _ _ _, fun off htouched => ?_⟩
  · rw [synthesisSlot_getElem?_self _ _ hch, hresult, nextVidx_of_hq hmode]
    rfl
  · obtain ⟨j, rfl⟩ := Nat.exists_eq_add_of_le hlo
    rw [entry_hqHistory_add _ _ _ hr hi]
    congr 1
    omega
  · rw [entry_hqHistory_front _ _ _ ch.syn.vidx.isLt hi, if_pos rfl]
  · rw [entry_hqHistory_front _ _ _ (1 - ch.syn.vidx).isLt hi, if_neg (by omega)]
  · rw [entry_synthesisSlot _ _ _ hk, hresult]
    exact wordAt_hqOutput _ _ _ hk
  · rw [synthesisSlot_ovf, Bool.or_eq_true, hresult, synHq_mark, hqOutput_mark]
    rfl
  · obtain ⟨hstatus, hrest⟩ := not_or.1 htouched
    obtain ⟨hvidx, hyre⟩ := not_or.1 hrest
    exact busRead_synthesisSlot _ _ hch (not_or.2 ⟨hstatus, hyre⟩) (absurd · hvidx)

/-- Settles O27: the history by the rules of `lpHistory`, the outputs by those of `lpOutput`, the frame by that of a
slot, which keeps `vidx`. -/
theorem qmfsLpStoresOneSlot : Obligations.QmfsLpStoresOneSlot := by
  intro s c nb ch hch hvalid hmode hnb x d u v
  have hresult := synthesisResult_of_lp (s := s) nb.toNat hmode
  refine ⟨synthesisSlot c.toNat nb.toNat s ch.syn, lpHistory ch.syn.hist v, exec_qmfs_of_valid hch hvalid hnb, ?_,
    fun i hlo hi => entry_lpHistory_of_le _ _ hlo hi, fun i hi => entry_lpHistory_front _ _ hi, fun k hk => ?_, ?_,
    sameOtherChannels_synthesisSlot _ _ _, synthesisSlot_frame _ _ _, fun off htouched => ?_⟩
  · rw [synthesisSlot_getElem?_self _ _ hch, hresult, nextVidx_of_lp hmode]
    rfl
  · rw [entry_synthesisSlot _ _ _ hk, hresult]
    exact wordAt_lpOutput _ _ hk
  · rw [synthesisSlot_ovf, Bool.or_eq_true, hresult, synLp_mark, lpOutput_mark]
    rfl
  · exact busRead_synthesisSlot _ _ hch htouched fun _ => nextVidx_of_lp hmode

end Sys2Proof.Machine

/-! The fault entry and the checks of the commands (spec/60_exceptions.md). -/

namespace Sys2Proof.Machine

open Sys2Proof.Stating

section

variable (s : State)

/-- Only `FAULTCMD` shows the word of the fault record (R63). -/
theorem busRead_with_faultcmd (w : Word) {off : Nat} (h : off ≠ 0x010) :
    busRead { s with faultcmd := w } off = busRead s off := by
  have hfaultcmd : ¬ off = Config.offFaultCmd := h
  simp only [busRead, if_neg hfaultcmd]
  rfl

/-- Fault entry shows in `STATUS` and `FAULTCMD` alone (R63, R276). -/
theorem busRead_raiseFault (k : Cause) (w : Word) {off : Nat} (hstatus : off ≠ 0x008) (hfaultcmd : off ≠ 0x010) :
    busRead (s.raiseFault k w) off = busRead s off :=
  (busRead_with_flags { s with faultcmd := w } true s.ovf (causeCode k) hstatus).trans
    (busRead_with_faultcmd s w hfaultcmd)

end

/-- A word that does not decode takes the decoder's fault (R91, R98). -/
theorem runCommand_of_decode_error {s : State} {w : Word} {k : Cause} (h : decode w = .error k) :
    runCommand w s = .next (s.raiseFault k w) := by
  rw [runCommand, h]

section

variable {s : State} {c : BitVec 4} {arg : BitVec 8} {limit : Nat} {valid : Channel → Bool}

/-- A construction command checks its channel alone (R91 step 5). -/
theorem channelFault_of_le (hc : s.nch ≤ c.toNat) : channelFault s c = some .chan := if_pos hc

/-- The channel is checked first (R91 steps 6 and 7). -/
theorem slotFault_of_le (hc : s.nch ≤ c.toNat) : slotFault s c arg limit valid = some .chan := if_pos hc

/-- The argument is checked before the context (R91 steps 6 and 7). -/
theorem slotFault_of_limit_lt (hc : c.toNat < s.nch) (harg : limit < arg.toNat) :
    slotFault s c arg limit valid = some .arg := by
  rw [slotFault, if_neg (Nat.not_le.2 hc), if_pos harg]

/-- The context is checked last (R91 steps 6 and 7). -/
theorem slotFault_of_invalid (hc : c.toNat < s.nch) (harg : arg.toNat ≤ limit)
    (hvalid : (s.channels[c.toNat]?).any valid = false) : slotFault s c arg limit valid = some .uninit := by
  rw [slotFault, if_neg (Nat.not_le.2 hc), if_neg (Nat.not_lt.2 harg), if_pos hvalid]

/-- Of a transform command, the size field alone is checked (R91 step 4). -/
theorem commandFault_of_mem_transforms {i : Instr} {n : BitVec 8} (hi : i ∈ transforms n) :
    commandFault s i = sizeFault n := by
  simp only [transforms, List.mem_cons, List.not_mem_nil, or_false] at hi
  obtain rfl | rfl | rfl | rfl | rfl | rfl := hi
  all_goals rfl

/-- A command that fails a check takes the fault of the first that it fails, with its own word (R91, R276). -/
theorem exec_of_commandFault {i : Instr} {k : Cause} (hk : commandFault s i = some k) :
    exec i s = .next (s.raiseFault k (encode i)) := by
  obtain ⟨t, ht⟩ := exec_total i s
  have hout := exec_faultsOr ht
  rw [hk] at hout
  exact ht.trans (congrArg _ hout)

end

/-- Settles O7: the three assignments of fault entry, and the two offsets that show them. -/
theorem faultEntryWritesTheFaultRecordOnly : Obligations.FaultEntryWritesTheFaultRecordOnly := by
  refine ⟨fun s k w => ⟨rfl, rfl, ?_, rfl, fun off htouched => ?_, rfl⟩, fun s w k hrun hd => ?_⟩
  · cases k <;> rfl
  · obtain ⟨hstatus, hfaultcmd⟩ := not_or.1 htouched
    exact busRead_raiseFault s k w hstatus hfaultcmd
  · rw [busWrite_cmd hrun, runCommand_of_decode_error hd]

/-- Settles O19: each hypothesis says which check of the command fails first. -/
theorem fieldChecksRaiseTheirFaults : Obligations.FieldChecksRaiseTheirFaults := by
  refine ⟨fun s n h16 h32 h64 i hi => exec_of_commandFault ?_, fun s c m k hc i hi => exec_of_commandFault ?_,
    fun s c k hc => ⟨fun hk => exec_of_commandFault ?_, fun hk => exec_of_commandFault ?_⟩,
    fun s c k hc => ⟨fun hk hvalid => exec_of_commandFault ?_, fun hk hvalid => exec_of_commandFault ?_⟩⟩
  · rw [commandFault_of_mem_transforms hi]
    refine sizeFault_of_ne_points fun sz => ?_
    cases sz with
    | n16 => exact h16
    | n32 => exact h32
    | n64 => exact h64
  · simp only [List.mem_cons, List.not_mem_nil, or_false] at hi
    obtain rfl | rfl | rfl | rfl := hi
    · exact channelFault_of_le hc
    · exact channelFault_of_le hc
    · exact slotFault_of_le hc
    · exact slotFault_of_le hc
  · exact slotFault_of_limit_lt hc hk
  · exact slotFault_of_limit_lt hc hk
  · exact slotFault_of_invalid hc hk hvalid
  · exact slotFault_of_invalid hc hk hvalid

end Sys2Proof.Machine

/-! The history of a context that is not valid cannot be observed (R52, R310): states that differ in such histories alone
stay so through every update, and a command reads the context of a valid bit only. -/

namespace Sys2Proof.Machine

open Sys2Proof.Stating

/-- The contexts of one channel, but for the histories of those that are not valid. -/
def Channel.SameButUnseen (ch ch' : Channel) : Prop :=
  ch'.ana = { ch.ana with hist := ch'.ana.hist } ∧
  ch'.syn = { ch.syn with hist := ch'.syn.hist } ∧
  (ch.ana.valid = true → ch'.ana.hist = ch.ana.hist) ∧
  (ch.syn.valid = true → ch'.syn.hist = ch.syn.hist)

/-- Two lists of contexts, channel by channel. -/
def ChannelsAgree (l l' : List Channel) : Prop :=
  l'.length = l.length ∧
  ∀ (c : Nat) (ch ch' : Channel), l[c]? = some ch → l'[c]? = some ch' → ch.SameButUnseen ch'

/-- The states that agree with `s` are `s` with another list of contexts that agrees with its own. -/
theorem sameButUnseen_iff {s s' : State} :
    SameButUnseen s s' ↔ ∃ l, s' = { s with channels := l } ∧ ChannelsAgree s.channels l := by
  refine ⟨fun ⟨hs, hl⟩ => ⟨s'.channels, hs, hl⟩, ?_⟩
  rintro ⟨l, rfl, hl⟩
  exact ⟨rfl, hl⟩

theorem Channel.SameButUnseen.refl (ch : Channel) : ch.SameButUnseen ch := ⟨rfl, rfl, fun _ => rfl, fun _ => rfl⟩

/-- A valid analysis context is the same in both channels. -/
theorem Channel.SameButUnseen.ana_eq {ch ch' : Channel} (h : ch.SameButUnseen ch') (hvalid : ch.ana.valid = true) :
    ch'.ana = ch.ana := by
  obtain ⟨hana, -, hhist, -⟩ := h
  rw [hana, hhist hvalid]

/-- A valid synthesis context is the same in both channels. -/
theorem Channel.SameButUnseen.syn_eq {ch ch' : Channel} (h : ch.SameButUnseen ch') (hvalid : ch.syn.valid = true) :
    ch'.syn = ch.syn := by
  obtain ⟨-, hsyn, -, hhist⟩ := h
  rw [hsyn, hhist hvalid]

section

variable {l l' : List Channel} (h : ChannelsAgree l l')

include h

/-- Both lists have a channel `c`, or neither has. -/
theorem ChannelsAgree.getElem?_cases (c : Nat) :
    (l[c]? = none ∧ l'[c]? = none) ∨
    ∃ ch ch', l[c]? = some ch ∧ l'[c]? = some ch' ∧ ch.SameButUnseen ch' := by
  obtain ⟨hlen, hchannel⟩ := h
  by_cases hc : c < l.length
  · have hch := List.getElem?_eq_getElem hc
    have hch' := List.getElem?_eq_getElem (hlen ▸ hc)
    exact .inr ⟨_, _, hch, hch', hchannel c _ _ hch hch'⟩
  · exact .inl ⟨List.getElem?_eq_none (by omega), List.getElem?_eq_none (by omega)⟩

/-- The same change of one channel keeps the agreement. -/
theorem ChannelsAgree.modify (c : Nat) {f : Channel → Channel}
    (hf : ∀ ch ch', ch.SameButUnseen ch' → (f ch).SameButUnseen (f ch')) :
    ChannelsAgree (l.modify c f) (l'.modify c f) := by
  refine ⟨by simpa using h.1, fun d x x' hx hx' => ?_⟩
  rw [List.getElem?_modify] at hx hx'
  obtain ⟨ch, hch, rfl⟩ := Option.map_eq_some_iff.1 hx
  obtain ⟨ch', hch', rfl⟩ := Option.map_eq_some_iff.1 hx'
  have hsame := h.2 d ch ch' hch hch'
  split_ifs
  · exact hf ch ch' hsame
  · exact hsame

/-- A register of bits that no history is part of reads the same (R63). -/
theorem ChannelsAgree.contextBits_eq {b : Channel → Bool} (hb : ∀ ch ch', ch.SameButUnseen ch' → b ch' = b ch) :
    contextBits b l' = contextBits b l := by
  refine Nat.eq_of_testBit_eq fun c => ?_
  rw [testBit_contextBits, testBit_contextBits]
  obtain ⟨hch, hch'⟩ | ⟨ch, ch', hch, hch', hsame⟩ := h.getElem?_cases c
  · rw [hch, hch']
  · rw [hch, hch', Option.any_some, Option.any_some, hb ch ch' hsame]

/-- No read shows a history (R63): the context registers hold the valid bits, the modes and `vidx`. -/
theorem ChannelsAgree.busRead_eq {s : State} (hs : s.channels = l) (off : Nat) :
    busRead { s with channels := l' } off = busRead s off := by
  subst hs
  have hana {b : AnaCtx → Bool} (hb : ∀ a v, b { a with hist := v } = b a) :
      contextBits (fun ch => b ch.ana) l' = contextBits (fun ch => b ch.ana) s.channels :=
    h.contextBits_eq fun ch ch' ⟨hsame, _⟩ => by rw [hsame, hb]
  have hsyn {b : SynCtx → Bool} (hb : ∀ y v, b { y with hist := v } = b y) :
      contextBits (fun ch => b ch.syn) l' = contextBits (fun ch => b ch.syn) s.channels :=
    h.contextBits_eq fun ch ch' ⟨_, hsame, _⟩ => by rw [hsame, hb]
  have hvalid := congrArg₂ (fun m n => BitVec.ofNat 32 (m + 2 ^ 16 * n))
    (hana (b := (·.valid)) fun _ _ => rfl) (hsyn (b := (·.valid)) fun _ _ => rfl)
  have hmode := congrArg₂ (fun m n => BitVec.ofNat 32 (m + 2 ^ 16 * n))
    (hana (b := (·.mode.toBit)) fun _ _ => rfl) (hsyn (b := (·.mode.toBit)) fun _ _ => rfl)
  have hvidx := congrArg (BitVec.ofNat 32) (hsyn (b := fun y => decide (y.vidx = 1)) fun _ _ => rfl)
  exact busRead_with_channels h.1 (fun _ => hvalid) (fun _ => hmode) fun _ => hvidx

end

section

variable {s s' : State} (h : SameButUnseen s s')

include h

/-- An update that neither reads nor writes the contexts keeps the agreement. -/
theorem sameButUnseen_update {f : State → State} (hchannels : (f s).channels = s.channels)
    (hf : ∀ l, f { s with channels := l } = { f s with channels := l }) : SameButUnseen (f s) (f s') := by
  obtain ⟨l, rfl, hl⟩ := sameButUnseen_iff.1 h
  exact sameButUnseen_iff.2 ⟨l, hf l, hchannels ▸ hl⟩

theorem sameButUnseen_setAna (c : Nat) (a : AnaCtx) : SameButUnseen (s.setAna c a) (s'.setAna c a) := by
  obtain ⟨l, rfl, hl⟩ := sameButUnseen_iff.1 h
  refine sameButUnseen_iff.2 ⟨_, rfl, hl.modify c fun ch ch' ⟨_, hsyn, _, hhist⟩ => ?_⟩
  exact ⟨rfl, hsyn, fun _ => rfl, hhist⟩

theorem sameButUnseen_setSyn (c : Nat) (y : SynCtx) : SameButUnseen (s.setSyn c y) (s'.setSyn c y) := by
  obtain ⟨l, rfl, hl⟩ := sameButUnseen_iff.1 h
  refine sameButUnseen_iff.2 ⟨_, rfl, hl.modify c fun ch ch' ⟨hana, _, hhist, _⟩ => ?_⟩
  exact ⟨hana, rfl, hhist, fun _ => rfl⟩

/-- A reset leaves the same block (R52), since `NCH` and `PROTO` are the same. -/
theorem sameButUnseen_afterReset : SameButUnseen s.afterReset s'.afterReset := by
  obtain ⟨l, rfl, hlen, -⟩ := sameButUnseen_iff.1 h
  have hreset : ({ s with channels := l } : State).afterReset = s.afterReset := by
    simp only [State.afterReset, State.nch, hlen]
  rw [hreset]
  exact ⟨rfl, rfl, fun c ch ch' hch hch' => Option.some.inj (hch.symm.trans hch') ▸ Channel.SameButUnseen.refl ch⟩

/-- An analysis slot on a context that both states have (R203). -/
theorem sameButUnseen_analysisSlot (c kx : Nat) (a : AnaCtx) :
    SameButUnseen (analysisSlot c kx s a) (analysisSlot c kx s' a) := by
  have hset := sameButUnseen_setAna h c { a with hist := ahist a.hist s.xre }
  obtain ⟨l, rfl, -⟩ := sameButUnseen_iff.1 h
  exact sameButUnseen_update hset (f := fun t => ((t.storeRe 32 _).storeIm 32 _).markOvf _) rfl fun _ => rfl

/-- A synthesis slot on a context that both states have (R233). -/
theorem sameButUnseen_synthesisSlot (c nb : Nat) (y : SynCtx) :
    SameButUnseen (synthesisSlot c nb s y) (synthesisSlot c nb s' y) := by
  have hset := sameButUnseen_setSyn h c { y with hist := (synthesisResult s nb y).hist, vidx := nextVidx y }
  have hresult : synthesisResult s' nb y = synthesisResult s nb y := by
    obtain ⟨l, rfl, -⟩ := sameButUnseen_iff.1 h
    rfl
  rw [synthesisSlot_eq, synthesisSlot_eq, hresult]
  exact sameButUnseen_update hset (f := fun t => (t.storeRe 64 _).markOvf _) rfl fun _ => rfl

end

/-- Both outcomes are next states, which agree. -/
def OutcomesAgree (o o' : Out) : Prop := ∃ t t', o = .next t ∧ o' = .next t' ∧ SameButUnseen t t'

theorem outcomesAgree_next {t t' : State} (h : SameButUnseen t t') : OutcomesAgree (.next t) (.next t') :=
  ⟨t, t', rfl, rfl, h⟩

section

variable {s s' : State} (h : SameButUnseen s s')

include h

theorem outcomesAgree_raiseFault (k : Cause) (w : Word) :
    OutcomesAgree (.next (s.raiseFault k w)) (.next (s'.raiseFault k w)) :=
  outcomesAgree_next (sameButUnseen_update h (f := fun t => t.raiseFault k w) rfl fun _ => rfl)

theorem outcomesAgree_onSize (i : Instr) (n : BitVec 8) {run : State → Size → State}
    (hrun : ∀ sz, SameButUnseen (run s sz) (run s' sz)) :
    OutcomesAgree (onSize i n s (run s)) (onSize i n s' (run s')) := by
  unfold onSize
  cases sizeOfField n with
  | none => exact outcomesAgree_raiseFault h .size (encode i)
  | some sz => exact outcomesAgree_next (hrun sz)

/-- The command of an engine reads and writes no context (R176). -/
theorem outcomesAgree_runEngine (i : Instr) (n : BitVec 8) (engine : Size → List Word → Marked (List Word)) :
    OutcomesAgree (onSize i n s (runEngine engine s)) (onSize i n s' (runEngine engine s')) :=
  outcomesAgree_onSize h i n fun sz => sameButUnseen_update h (f := fun t => runEngine engine t sz) rfl fun _ => rfl

theorem outcomesAgree_onChannel (i : Instr) (c : BitVec 4) {t t' : State} (hrun : SameButUnseen t t') :
    OutcomesAgree (onChannel i c s fun _ => t) (onChannel i c s' fun _ => t') := by
  have hfault := outcomesAgree_raiseFault h .chan (encode i)
  obtain ⟨-, hl⟩ := h
  unfold onChannel
  obtain ⟨hch, hch'⟩ | ⟨ch, ch', hch, hch', -⟩ := ChannelsAgree.getElem?_cases hl c.toNat
  · rw [hch, hch']
    exact hfault
  · rw [hch, hch']
    exact outcomesAgree_next hrun

/-- A slot command checks the same valid bit, and runs on a context that is valid in both states. -/
theorem outcomesAgree_onSlot (i : Instr) (c : BitVec 4) (arg : BitVec 8) (limit : Nat) {valid : Channel → Bool}
    {run : State → Channel → State} (hvalid : ∀ ch ch', ch.SameButUnseen ch' → valid ch' = valid ch)
    (hrun : ∀ ch ch', ch.SameButUnseen ch' → valid ch = true → SameButUnseen (run s ch) (run s' ch')) :
    OutcomesAgree (onSlot i c arg limit valid s (run s)) (onSlot i c arg limit valid s' (run s')) := by
  have hfault := fun k => outcomesAgree_raiseFault h k (encode i)
  obtain ⟨-, hl⟩ := h
  unfold onSlot
  obtain ⟨hch, hch'⟩ | ⟨ch, ch', hch, hch', hsame⟩ := ChannelsAgree.getElem?_cases hl c.toNat
  · rw [hch, hch']
    exact hfault .chan
  · rw [hch, hch']
    dsimp only
    rw [hvalid ch ch' hsame]
    split_ifs with harg hinvalid
    · exact hfault .arg
    · exact hfault .uninit
    · exact outcomesAgree_next (hrun ch ch' hsame (by simpa using hinvalid))

theorem outcomesAgree_exec (i : Instr) : OutcomesAgree (exec i s) (exec i s') := by
  cases i with
  | nop => exact outcomesAgree_next h
  | fft n =>
    exact outcomesAgree_onSize h _ n (run := runFft) fun sz =>
      sameButUnseen_update h (f := fun t => runFft t sz) rfl fun _ => rfl
  | dct2 n => exact outcomesAgree_runEngine h _ n dct2
  | dct3 n => exact outcomesAgree_runEngine h _ n dct3
  | dct4 n => exact outcomesAgree_runEngine h _ n dct4
  | dst2 n => exact outcomesAgree_runEngine h _ n dst2
  | dst4 n => exact outcomesAgree_runEngine h _ n dst4
  | ainit c m => exact outcomesAgree_onChannel h _ c (sameButUnseen_setAna h c.toNat (anaInit m))
  | sinit c m => exact outcomesAgree_onChannel h _ c (sameButUnseen_setSyn h c.toNat (synInit m))
  | qmfa c kx =>
    refine outcomesAgree_onSlot h _ c kx 32 (run := fun t ch => analysisSlot c.toNat kx.toNat t ch.ana)
      (fun ch ch' ⟨hana, _⟩ => by rw [hana]) fun ch ch' hsame hvalid => ?_
    rw [hsame.ana_eq hvalid]
    exact sameButUnseen_analysisSlot h c.toNat kx.toNat ch.ana
  | qmfs c nb =>
    refine outcomesAgree_onSlot h _ c nb 64 (run := fun t ch => synthesisSlot c.toNat nb.toNat t ch.syn)
      (fun ch ch' ⟨_, hsyn, _⟩ => by rw [hsyn]) fun ch ch' hsame hvalid => ?_
    rw [hsame.syn_eq hvalid]
    exact sameButUnseen_synthesisSlot h c.toNat nb.toNat ch.syn

theorem outcomesAgree_runCommand (w : Word) : OutcomesAgree (runCommand w s) (runCommand w s') := by
  unfold runCommand
  cases decode w with
  | ok i => exact outcomesAgree_exec h i
  | error k => exact outcomesAgree_raiseFault h k w

theorem outcomesAgree_busWrite (off : Nat) (v : Word) : OutcomesAgree (busWrite off v s) (busWrite off v s') := by
  have hfault : s'.fault = s.fault := by rw [h.1]
  unfold busWrite
  rw [hfault]
  split_ifs
  · exact outcomesAgree_next h
  · exact outcomesAgree_next (sameButUnseen_update h (f := State.clearOvf) rfl fun _ => rfl)
  · exact outcomesAgree_next h
  · exact outcomesAgree_runCommand h v
  · exact outcomesAgree_next (sameButUnseen_update h (f := fun t => t.setXre _ v) rfl fun _ => rfl)
  · exact outcomesAgree_next (sameButUnseen_update h (f := fun t => t.setXim _ v) rfl fun _ => rfl)
  · exact outcomesAgree_next h

theorem outcomesAgree_serve (e : HostEvent) : OutcomesAgree (serve e s) (serve e s') := by
  cases e with
  | read a =>
    refine outcomesAgree_next (?_ : SameButUnseen (s.reply _) (s'.reply _))
    have hread : busRead s' a.offset = busRead s a.offset := by
      obtain ⟨l, rfl, hl⟩ := sameButUnseen_iff.1 h
      exact hl.busRead_eq rfl a.offset
    rw [hread]
    exact sameButUnseen_update h (f := fun t => t.reply _) rfl fun _ => rfl
  | write a v => exact outcomesAgree_busWrite h a.offset v
  | reset => exact outcomesAgree_next (sameButUnseen_afterReset h)

theorem outcomesAgree_step : OutcomesAgree (step s) (step s') := by
  have hport : s'.port = s.port := by rw [h.1]
  unfold step
  rw [hport]
  cases s.port with
  | nil => exact outcomesAgree_next h
  | cons e rest =>
    exact outcomesAgree_serve (sameButUnseen_update h (f := fun t => { t with port := rest }) rfl fun _ => rfl) e

end

/-- Settles O42: the step of one state agrees with the step of the other, at every event. -/
theorem unconstructedHistoryIsUnobservable : Obligations.UnconstructedHistoryIsUnobservable := by
  intro s s' t h ht
  obtain ⟨u, t', hu, ht', hsame⟩ := outcomesAgree_step h
  cases ht.symm.trans hu
  exact ⟨t', ht', hsame⟩

end Sys2Proof.Machine

/-! The events at the pins, reset and `NOP` (R14, R34, R52, R260). -/

namespace Sys2Proof.Machine

open Sys2Proof.Stating

/-- A step serves the first event of the host's list, which is taken off the list (R14). -/
theorem step_of_port {s : State} {e : HostEvent} {rest : List HostEvent} (hp : s.port = e :: rest) :
    step s = serve e { s with port := rest } := by
  rw [step, hp]

theorem step_of_idle {s : State} (hp : s.port = []) : step s = .next s := by
  rw [step, hp]

/-- A command word that decodes runs its command (R91). -/
theorem runCommand_of_decode {s : State} {w : Word} {i : Instr} (hd : decode w = .ok i) :
    runCommand w s = exec i s := by
  rw [runCommand, hd]

/-- While `FAULT = 0` the write of a command word runs it (R34). -/
theorem step_of_commandWrite {s : State} {w : Word} {i : Instr} {rest : List HostEvent} (hrun : s.fault = false)
    (hp : s.port = commandWrite w :: rest) (hd : decode w = .ok i) : step s = exec i { s with port := rest } := by
  rw [step_of_port hp]
  exact (busWrite_cmd (s := { s with port := rest }) hrun).trans (runCommand_of_decode hd)

/-- Settles O6, event by event; a state prepared by `withFetchWord` has the command word at the head of the list. -/
theorem stepRunsTheDecodedCommand : Obligations.StepRunsTheDecodedCommand := by
  refine ⟨fun s => step_of_idle, fun s a rest => step_of_port, fun s a v rest => step_of_port,
    fun s w i rest => step_of_commandWrite, fun s w i hrun hd => ?_⟩
  have hword : BitVec.ofNat 32 (w.toNat % 2 ^ 32) = w := by
    rw [Nat.mod_eq_of_lt w.isLt, BitVec.ofNat_toNat, BitVec.setWidth_eq]
  exact step_of_commandWrite (s := s.withFetchWord 32 w.toNat) (rest := s.port) hrun
    (by rw [State.withFetchWord_port, hword]) hd

/-- Every entry of a buffer after reset is 0 (R52). -/
theorem entry_replicate_zero {n i : Nat} (hi : i < n) : entry (Vector.replicate n 0#32) i = 0#32 := by
  rw [entry_eq_getElem _ _ hi, Vector.getElem_replicate]

/-- Settles O15, by the fields of the state after reset. -/
theorem resetLeavesTheStatedValues : Obligations.ResetLeavesTheStatedValues := by
  intro s rest hp
  refine ⟨_, step_of_port hp, fun i hi => ?_, rfl, rfl, rfl, rfl, ⟨State.nch_afterReset _, rfl⟩, rfl, rfl,
    fun ch hch => ?_⟩
  · have hzero := entry_replicate_zero hi
    exact ⟨hzero, hzero, hzero, hzero⟩
  · obtain rfl := List.eq_of_mem_replicate hch
    exact ⟨rfl, rfl, rfl, rfl, rfl⟩

/-- The state after reset of a block of a legal `NCH` (R8, R52, R53). -/
theorem State.inv_resetWith {nch : Nat} (proto : Vector Word 640) (hlo : 1 ≤ nch) (hhi : nch ≤ 16) :
    (State.resetWith nch proto).Inv := by
  have hnch : (State.resetWith nch proto).nch = nch := List.length_replicate
  refine ⟨⟨hnch.symm ▸ hlo, hnch.symm ▸ hhi⟩, fun _ => ⟨rfl, rfl⟩, nofun, fun ch hch => ?_⟩
  obtain rfl := List.eq_of_mem_replicate hch
  exact ⟨fun _ => rfl, fun _ => ⟨rfl, rfl⟩, nofun⟩

/-- Settles O16: no fault is recorded, and no context is valid. -/
theorem resetSatisfiesTheInvariants : Obligations.ResetSatisfiesTheInvariants :=
  ⟨fun _ proto hlo hhi => State.inv_resetWith proto hlo hhi,
    State.inv_resetWith Config.proto (nch := Config.referenceNch) (by decide) (by decide)⟩

/-- `NOP` is the only command of operation code 0 (R92). -/
theorem eq_nop_of_fieldOpc {i : Instr} (h : fieldOpc (encode i) = 0#4) : i = .nop := by
  cases i with
  | nop => rfl
  | fft | dct2 | dct3 | dct4 | dst2 | dst4 | ainit | qmfa | sinit | qmfs => simp [encode] at h

/-- Settles O20: a word of operation code 0 that decodes is the word of `NOP`, which is 0. -/
theorem nopChangesNothing : Obligations.NopChangesNothing := by
  refine ⟨fun s => rfl, fun w hopc hne => ?_, fun s => ?_⟩
  · cases hd : decode w with
    | ok i =>
      obtain rfl := encode_of_decode hd
      have hfield : fieldOpc (encode i) = 0#4 := BitVec.eq_of_toNat_eq ((fields_toNat _).1.trans hopc)
      exact absurd (congrArg encode (eq_nop_of_fieldOpc hfield)) hne
    | error k =>
      have hrow : ¬ opcReserved (fieldOpc w) = true := by
        rw [opcReserved_iff]
        omega
      rw [decode_error_cause hd, if_neg hrow]
  · cases hfault : s.fault with
    | true => exact busWrite_of_fault _ _ hfault
    | false => exact (busWrite_cmd hfault).trans (runCommand_of_decode wordsOfTheEncodingsDecode.1)

end Sys2Proof.Machine

/-! Exact rotations and the exact discrete Fourier sum (R151, R153), to which the core is compared: a sum of `2 n` terms
is a sum of `n` terms of the sums of the two halves, or of their rotated differences. -/

namespace Sys2Proof.Machine

open Complex Sys2Proof.Stating

/-- The exact rotation by the angle `-t`, that is `e^(-i t)` (R151). -/
noncomputable def clockwise (t : ℝ) : ℂ := ⟨Real.cos t, -Real.sin t⟩

theorem clockwise_add (s t : ℝ) : clockwise (s + t) = clockwise s * clockwise t := by
  apply Complex.ext
  · simp only [clockwise, mul_re, Real.cos_add]; ring
  · simp only [clockwise, mul_im, Real.sin_add]; ring

@[simp] theorem clockwise_zero : clockwise 0 = 1 := by
  apply Complex.ext <;> simp [clockwise]

theorem norm_clockwise (t : ℝ) : ‖clockwise t‖ = 1 := by
  have hsq : normSq (clockwise t) = 1 := by
    rw [normSq_apply, clockwise, neg_mul_neg, ← sq, ← sq, Real.cos_sq_add_sin_sq]
  rw [← Real.sqrt_one, ← hsq]
  rfl

theorem norm_mul_clockwise (z : ℂ) (t : ℝ) : ‖z * clockwise t‖ = ‖z‖ := by
  rw [norm_mul, norm_clockwise, mul_one]

theorem clockwise_turns (m : Nat) : clockwise (2 * Real.pi * m) = 1 := by
  have hsin : Real.sin (m * (2 * Real.pi)) = 0 := Real.sin_periodic.nat_mul_eq m |>.trans Real.sin_zero
  rw [mul_comm]
  exact Complex.ext (Real.cos_nat_mul_two_pi m) (neg_eq_zero.2 hsin)

theorem clockwise_half_turn : clockwise Real.pi = -1 := by
  apply Complex.ext <;> simp [clockwise]

/-- The direct sum `DFT_n` of R151 at `k`. -/
noncomputable def dft (n : Nat) (z : Nat → ℂ) (k : Nat) : ℂ :=
  ∑ i ∈ Finset.range n, z i * clockwise (2 * Real.pi * i * k / n)

/-- Terms that differ by at most `e` give sums that differ by at most `n e`. -/
theorem norm_dft_sub_le {n : Nat} {z z' : Nat → ℂ} {e : ℝ} (h : ∀ i, i < n → ‖z i - z' i‖ ≤ e) (k : Nat) :
    ‖dft n z k - dft n z' k‖ ≤ n * e := by
  rw [dft, dft, ← Finset.sum_sub_distrib]
  calc ‖∑ i ∈ Finset.range n, (z i * clockwise (2 * Real.pi * i * k / n) - z' i * clockwise (2 * Real.pi * i * k / n))‖
      ≤ ∑ _i ∈ Finset.range n, e := norm_sum_le_of_le _ fun i hi => by
        rw [← sub_mul, norm_mul_clockwise]
        exact h i (Finset.mem_range.1 hi)
    _ = n * e := by rw [Finset.sum_const, Finset.card_range, nsmul_eq_mul]

theorem dft_congr {n : Nat} {z z' : Nat → ℂ} (h : ∀ i, i < n → z i = z' i) (k : Nat) : dft n z k = dft n z' k :=
  Finset.sum_congr rfl fun i hi => by rw [h i (Finset.mem_range.1 hi)]

section

variable {n : Nat} (hn : 0 < n) (z : Nat → ℂ) (m : Nat)

include hn

/-- Even entries of the sum are those of the sums of the two halves (R153). -/
theorem dft_double_even : dft (2 * n) z (2 * m) = dft n (fun i => z i + z (i + n)) m := by
  have hn' : (n : ℝ) ≠ 0 := by positivity
  rw [dft, two_mul n, Finset.sum_range_add, dft, ← Finset.sum_add_distrib]
  refine Finset.sum_congr rfl fun i _ => ?_
  have hlow : 2 * Real.pi * i * (2 * m : Nat) / (n + n : Nat) = 2 * Real.pi * i * m / n := by
    push_cast
    field_simp
    ring
  have hhigh : 2 * Real.pi * (n + i : Nat) * (2 * m : Nat) / (n + n : Nat) =
      2 * Real.pi * i * m / n + 2 * Real.pi * m := by
    push_cast
    field_simp
    ring
  rw [hlow, hhigh, clockwise_add, clockwise_turns, mul_one, ← add_mul, Nat.add_comm n i]

/-- Odd entries of the sum are those of the differences of the two halves, rotated (R153). -/
theorem dft_double_odd : dft (2 * n) z (2 * m + 1) =
    dft n (fun i => (z i - z (i + n)) * clockwise (Real.pi * i / n)) m := by
  have hn' : (n : ℝ) ≠ 0 := by positivity
  rw [dft, two_mul n, Finset.sum_range_add, dft, ← Finset.sum_add_distrib]
  refine Finset.sum_congr rfl fun i _ => ?_
  have hlow : 2 * Real.pi * i * (2 * m + 1 : Nat) / (n + n : Nat) =
      Real.pi * i / n + 2 * Real.pi * i * m / n := by
    push_cast
    field_simp
    ring
  have hhigh : 2 * Real.pi * (n + i : Nat) * (2 * m + 1 : Nat) / (n + n : Nat) =
      Real.pi * i / n + 2 * Real.pi * i * m / n + 2 * Real.pi * m + Real.pi := by
    push_cast
    field_simp
    ring
  rw [hlow, hhigh, clockwise_add _ Real.pi, clockwise_add _ (2 * Real.pi * m), clockwise_turns, clockwise_half_turn,
    clockwise_add, Nat.add_comm n i]
  ring

end

end Sys2Proof.Machine

/-! The words of the core against the exact sum: each butterfly rounds the two components of a rotation once, and the
tables are within `2^-30` of the exact rotations (R126). -/

namespace Sys2Proof.Machine

open Complex Sys2Proof.Stating

/-- A table entry is near the exact rotation by its angle (R126). -/
theorem norm_twiddle_sub_le {j : Nat} (hj : j < 256) :
    ‖twiddle j - clockwise (2 * Real.pi * j / 512)‖ ≤ 1 / 2 ^ 30 := by
  obtain ⟨hcos, hsin⟩ := twiddleEntriesAreNearestIntegers j hj
  have hscale : ‖(2 ^ 30 : ℝ) * (twiddle j - clockwise (2 * Real.pi * j / 512))‖ ≤ 1 := by
    refine (norm_le_abs_re_add_abs_im _).trans ?_
    have hre : ((2 ^ 30 : ℝ) * (twiddle j - clockwise (2 * Real.pi * j / 512))).re =
        twc j - 2 ^ 30 * Real.cos (2 * Real.pi * j / 512) := by
      rw [re_ofReal_mul, sub_re, twiddle, clockwise]
      ring
    have him : ((2 ^ 30 : ℝ) * (twiddle j - clockwise (2 * Real.pi * j / 512))).im =
        -(tws j - 2 ^ 30 * Real.sin (2 * Real.pi * j / 512)) := by
      rw [im_ofReal_mul, sub_im, twiddle, clockwise]
      ring
    rw [hre, him, abs_neg]
    linarith
  rw [norm_mul, norm_real, Real.norm_of_nonneg (by positivity)] at hscale
  rwa [le_div_iff₀' (by positivity)]

/-- Two components of at most one half. -/
theorem norm_le_of_abs_le_half {z : ℂ} (hre : |z.re| ≤ 1 / 2) (him : |z.im| ≤ 1 / 2) : ‖z‖ ≤ 71 / 100 := by
  rw [← abs_of_nonneg (norm_nonneg z)]
  refine abs_le_of_sq_le_sq ?_ (by norm_num)
  rw [Complex.sq_norm, normSq_apply]
  nlinarith [abs_le.1 hre, abs_le.1 him]

/-- The error of a rotation of a value `z` by a table entry: that of the table, with the modulus of `z`. -/
theorem norm_mul_twiddle_sub_le {j : Nat} (hj : j < 256) (z : ℂ) :
    ‖z * twiddle j - z * clockwise (2 * Real.pi * j / 512)‖ ≤ ‖z‖ / 2 ^ 30 := by
  rw [← mul_sub, norm_mul]
  exact (mul_le_mul_of_nonneg_left (norm_twiddle_sub_le hj) (norm_nonneg z)).trans_eq (mul_one_div _ _)

/-- `ROT` of a pair in range is the exact rotation, but for one rounding of each component and the error of the tables
(R126, R132). -/
theorem norm_rot_sub_clockwise_le {a b : Word} (h : ‖point a b‖ ≤ 3 * 2 ^ 29) {j : Nat} (hj : j < 256) :
    ‖point (rotRe a b j).val (rotIm a b j).val - point a b * clockwise (2 * Real.pi * j / 512)‖ ≤
      71 / 100 + ‖point a b‖ / 2 ^ 30 := by
  obtain ⟨hre, him⟩ := abs_rotation_le h j
  have hround : ‖point (rotRe a b j).val (rotIm a b j).val - point a b * twiddle j‖ ≤ 71 / 100 := by
    rw [point_mul_twiddle]
    exact norm_le_of_abs_le_half (rnd_of_abs_le hre).2 (rnd_of_abs_le him).2
  exact (norm_sub_le_norm_sub_add_norm_sub _ _ _).trans (add_le_add hround (norm_mul_twiddle_sub_le hj _))

theorem pointAt_of_size_le {w : Work} {n i : Nat} (hw : w.HasSize n) (hi : n ≤ i) : w.pointAt i = 0 := by
  obtain ⟨hre, him⟩ := hw
  rw [Work.pointAt, wordAt, wordAt, List.getD_eq_default _ _ (by omega), List.getD_eq_default _ _ (by omega)]
  exact Complex.ext real_zero real_zero

/-- The entries outside work arrays are 0, so the bound is one on the entries inside. -/
theorem Work.Within.of_lt {w : Work} {n : Nat} {M : ℝ} (hw : w.HasSize n) (hM : 0 ≤ M)
    (h : ∀ i, i < n → ‖w.pointAt i‖ ≤ M) : w.Within M := by
  refine ⟨hw.1.trans hw.2.symm, fun i => ?_⟩
  by_cases hi : i < n
  · exact h i hi
  · rwa [pointAt_of_size_le hw (Nat.le_of_not_lt hi), norm_zero]

/-- The entries of the halves of work arrays. -/
theorem pointAt_lower {n i : Nat} (w : Work) (hi : i < n) : (w.lower n).pointAt i = w.pointAt i := by
  simp [Work.pointAt, Work.lower, wordAt, List.getD_eq_getElem?_getD, hi]

theorem pointAt_upper (n i : Nat) (w : Work) : (w.upper n).pointAt i = w.pointAt (i + n) := by
  simp [Work.pointAt, Work.upper, wordAt, List.getD_eq_getElem?_getD, Nat.add_comm]

section

variable {n : Nat} {lo hi : Work} (hlo : lo.HasSize n)

include hlo

/-- The entries of two work arrays as one. -/
theorem pointAt_beside_left {i : Nat} (hlt : i < n) : (lo.beside hi).pointAt i = lo.pointAt i := by
  obtain ⟨hre, him⟩ := hlo
  simp only [Work.pointAt, Work.beside, wordAt_append_left, hre, him, hlt]

theorem pointAt_beside_right (i : Nat) : (lo.beside hi).pointAt (n + i) = hi.pointAt i := by
  simp only [Work.pointAt, Work.beside, wordAt_append_right hlo.1, wordAt_append_right hlo.2]

end

/-- A butterfly on two entries in range: their exact sum, and their rotated difference (R152). -/
theorem butterfly_near {w : Work} {n p q j : Nat} {M : ℝ} (hw : w.HasSize n) (hpq : p < q) (hq : q < n)
    (hwithin : w.Within M) (hM : M ≤ 3 * 2 ^ 28) (hj : j < 256) :
    (butterfly w p q j).pointAt p = w.pointAt p + w.pointAt q ∧
    ‖(butterfly w p q j).pointAt q - (w.pointAt p - w.pointAt q) * clockwise (2 * Real.pi * j / 512)‖ ≤
      71 / 100 + 2 * M / 2 ^ 30 := by
  obtain ⟨hpre, hpim, hqre, hqim, -⟩ := butterflyFollowsItsDatapath w p q j hpq (hw.1.symm ▸ hq) (hw.2.symm ▸ hq)
  obtain ⟨hadd, hsub⟩ := norm_add_sub_le (hwithin.bound p) (hwithin.bound q)
  have hsum : w.pointAt p + w.pointAt q =
      ⟨((wordAt w.re p).toInt + (wordAt w.re q).toInt : Int), ((wordAt w.im p).toInt + (wordAt w.im q).toInt : Int)⟩ := by
    apply Complex.ext <;> push_cast <;> rfl
  have hdiff : w.pointAt p - w.pointAt q =
      ⟨((wordAt w.re p).toInt - (wordAt w.re q).toInt : Int), ((wordAt w.im p).toInt - (wordAt w.im q).toInt : Int)⟩ := by
    apply Complex.ext <;> push_cast <;> rfl
  obtain ⟨-, -, hs⟩ := wr_pair (hsum ▸ hadd.trans_lt (by linarith))
  obtain ⟨-, -, hd⟩ := wr_pair (hdiff ▸ hsub.trans_lt (by linarith))
  rw [← hd] at hdiff
  refine ⟨?_, ?_⟩
  · rw [Work.pointAt, hpre, hpim, hs, hsum]
  · have hrot := norm_rot_sub_clockwise_le (hdiff ▸ hsub.trans (by linarith)) hj
    rw [← hdiff] at hrot
    rw [Work.pointAt, hqre, hqim]
    refine hrot.trans ?_
    gcongr

/-- What the first stage leaves at an entry is what the butterfly on that entry writes (R153). -/
theorem pointAt_firstStage (w : Work) {n k i : Nat} (hk : k < n) (hi : touches (firstButterfly n k) i) :
    (firstStage n w).pointAt i = (butterfly w k (k + n) (k * (256 / n))).pointAt i := by
  have hmem := (mem_firstStage (Nat.zero_lt_of_lt hk) _).2 ⟨k, hk, rfl⟩
  obtain ⟨hre, him⟩ := wordAt_runButterflies_of_touches _ (stageButterflies_disjoint _ _) w hmem hi
  exact congrArg₂ point hre him

/-- What the first stage of a core of `2 n` points leaves in its two halves (R153). -/
theorem firstStage_near {w : Work} {n k : Nat} {M : ℝ} (hw : w.HasSize (2 * n)) (hwithin : w.Within M)
    (hM : M ≤ 3 * 2 ^ 28) (hdvd : n ∣ 256) (hk : k < n) :
    (firstStage n w).pointAt k = w.pointAt k + w.pointAt (k + n) ∧
    ‖(firstStage n w).pointAt (k + n) - (w.pointAt k - w.pointAt (k + n)) * clockwise (Real.pi * k / n)‖ ≤
      71 / 100 + 2 * M / 2 ^ 30 := by
  obtain ⟨g, hg⟩ := hdvd
  have hn : 0 < n := Nat.zero_lt_of_lt hk
  have hn' : (n : ℝ) ≠ 0 := by positivity
  have hg' : (256 : ℝ) = n * g := mod_cast hg
  have hindex : 256 / n = g := by rw [hg, Nat.mul_div_cancel_left _ hn]
  have hj : k * (256 / n) < 256 := by
    rw [hindex, hg]
    exact Nat.mul_lt_mul_of_pos_right hk (Nat.pos_of_ne_zero fun h0 => by simp [h0] at hg)
  have hangle : 2 * Real.pi * (k * (256 / n) : Nat) / 512 = Real.pi * k / n := by
    rw [hindex, show (512 : ℝ) = 2 * (n * g) by rw [← hg']; norm_num]
    have hg0 : (g : ℝ) ≠ 0 := fun h0 => by simp [h0] at hg'
    push_cast
    field_simp
  have hstage := fun i => pointAt_firstStage w (i := i) hk
  obtain ⟨hsum, hrot⟩ := butterfly_near hw (p := k) (q := k + n) (by omega) (by omega) hwithin hM hj
  rw [hangle] at hrot
  rw [hstage k (.inl rfl), hstage (k + n) (.inr rfl)]
  exact ⟨hsum, hrot⟩

/-- The error of a core of `2^b` points whose butterflies stay below `C` in modulus: a rounding for each rotation that an
output has gone through, doubled by each later stage, and the tables' error of each stage. -/
noncomputable def coreError (b : Nat) (C : ℝ) : ℝ := (2 ^ b - 1) * (71 / 100) + b * C / 2 ^ 30

theorem coreError_succ (b : Nat) (C : ℝ) :
    coreError (b + 1) C = coreError b C + (2 ^ b * (71 / 100) + C / 2 ^ 30) := by
  simp only [coreError]
  push_cast
  ring

/-- The core, read through the bit reversal, is the direct sum within `coreError` (R13, R151). -/
theorem fftCore_near {b : Nat} (hb : b ≤ 8) {w : Work} (hw : w.HasSize (2 ^ b)) {M C : ℝ} (hwithin : w.Within M)
    (hM : 2 ^ b * (M + 3) ≤ C) (hC : C ≤ 3 * 2 ^ 29) {k : Nat} (hk : k < 2 ^ b) :
    ‖(fftCore b w).pointAt (bitrev b k) - dft (2 ^ b) w.pointAt k‖ ≤ coreError b C := by
  induction b generalizing w M k with
  | zero =>
    obtain rfl : k = 0 := by simpa using hk
    have hcore : (fftCore 0 w).pointAt 0 = w.pointAt 0 := rfl
    simp [hcore, dft, coreError]
  | succ b ih =>
    have hM0 : 0 ≤ M := (norm_nonneg _).trans (hwithin.bound 0)
    have hpow : (1 : ℝ) ≤ 2 ^ b := one_le_pow₀ (by norm_num)
    rw [pow_succ] at hM
    have hMle : M ≤ 3 * 2 ^ 28 := by nlinarith
    rw [Nat.pow_succ'] at hw hk
    obtain ⟨hsizelo, hsizeup⟩ := hasSize_halves hw
    have hstage := (fftStage_within hwithin hMle (2 * 2 ^ b) (2 ^ b)).2
    have hnear := fun i (hi : i < 2 ^ b) =>
      firstStage_near hw hwithin hMle (pow_dvd_pow 2 (show b ≤ 8 by omega)) hi
    have hlower : ((firstStage (2 ^ b) w).lower (2 ^ b)).Within (2 * M + 3) :=
      .of_lt hsizelo (by linarith) fun i hi => by rw [pointAt_lower _ hi]; exact hstage.bound i
    have hupper : ((firstStage (2 ^ b) w).upper (2 ^ b)).Within (2 * M + 3) :=
      .of_lt hsizeup (by linarith) fun i _ => by rw [pointAt_upper]; exact hstage.bound _
    have hM' : 2 ^ b * (2 * M + 3 + 3) ≤ C := by linarith
    have hsize : ((fftCore b ((firstStage (2 ^ b) w).lower (2 ^ b))).orMark (firstStage (2 ^ b) w).mark).HasSize
      (2 ^ b) := hasSize_fftCore hsizelo
    have hC0 : 0 ≤ C := le_trans (by positivity) hM'
    rw [fftCore_double hw, Nat.pow_succ']
    obtain ⟨m, rfl | rfl⟩ := Nat.even_or_odd' k
    · have hrev : bitrev (b + 1) (2 * m) = bitrev b m := by simp [bitrev]
      rw [hrev, pointAt_beside_left hsize (bitrev_lt b m), dft_double_even (by positivity)]
      have hcore := ih (by omega) hsizelo hlower hM' (k := m) (by omega)
      rw [dft_congr fun i hi => (pointAt_lower _ hi).trans (hnear i hi).1] at hcore
      refine hcore.trans ?_
      rw [coreError_succ]
      exact le_add_of_nonneg_right (by positivity)
    · have hrev : bitrev (b + 1) (2 * m + 1) = 2 ^ b + bitrev b m := by
        have hhalf : (2 * m + 1) / 2 = m := by omega
        have hbit : (2 * m + 1) % 2 = 1 := by omega
        rw [bitrev, hhalf, hbit, one_mul]
      rw [hrev, pointAt_beside_right hsize, dft_double_odd (by positivity)]
      have hcore := ih (by omega) hsizeup hupper hM' (k := m) (by omega)
      have hinput := norm_dft_sub_le (n := 2 ^ b) (z := ((firstStage (2 ^ b) w).upper (2 ^ b)).pointAt)
        (fun i hi => by rw [pointAt_upper]; exact (hnear i hi).2) m
      refine (norm_sub_le_norm_sub_add_norm_sub _ _ _).trans ((add_le_add hcore hinput).trans ?_)
      have hmodulus : 2 ^ b * (2 * M) ≤ C := by linarith
      rw [coreError_succ]
      push_cast
      linarith

end Sys2Proof.Machine

/-! The command `FFT` against the direct sum (R150, R151). -/

namespace Sys2Proof.Machine

open Complex Sys2Proof.Stating

theorem bits_le (sz : Size) : sz.bits ≤ 8 := by cases sz <;> decide

theorem two_pow_bits (sz : Size) : (2 : ℝ) ^ sz.bits = sz.points := mod_cast (points_eq_two_pow sz).symm

theorem abs_real_le {b : Int} {w : Word} (h : atMost b w) : |real w| ≤ b := by
  obtain ⟨hlo, hhi⟩ := h
  rw [real, abs_le]
  exact ⟨mod_cast hlo, mod_cast hhi⟩

section

variable {sz : Size} {w : Work} (hw : w.HasSize sz.points) (hwithin : w.Within (2 ^ 22))

include hwithin

/-- Operands of modulus at most `2^22` stay in range in the core (R133). -/
theorem fftCore_within_of_small : (fftCore sz.bits w).Within (3 * 2 ^ 29) :=
  (fftCore_within hwithin (by cases sz <;> norm_num [Size.bits])).2

include hw

/-- The core of a size on operands of modulus at most `2^22` is the direct sum within `3/4 N`. -/
theorem fftCore_near_of_small {k : Nat} (hk : k < sz.points) :
    ‖(fftCore sz.bits w).pointAt (bitrev sz.bits k) - dft sz.points w.pointAt k‖ ≤ 3 / 4 * sz.points := by
  have herror : coreError sz.bits (2 ^ sz.bits * (2 ^ 22 + 3)) ≤ 3 / 4 * sz.points := by
    cases sz <;> norm_num [coreError, Size.bits, Size.points]
  rw [points_eq_two_pow] at hw hk
  have hnear := fftCore_near (bits_le sz) hw hwithin le_rfl (by cases sz <;> norm_num [Size.bits]) hk
  rw [← points_eq_two_pow] at hnear
  exact hnear.trans herror

end

/-- The reference sums are the components of the direct sum (R151). -/
theorem dft_eq_reference (n : Nat) (a b : Nat → ℝ) (k : Nat) :
    dft n (fun i => ⟨a i, b i⟩) k = ⟨Reference.dftRe n a b k, Reference.dftIm n a b k⟩ := by
  apply Complex.ext
  · rw [dft, re_sum, Reference.dftRe]
    refine Finset.sum_congr rfl fun i _ => ?_
    rw [mul_re, clockwise]
    ring
  · rw [dft, im_sum, Reference.dftIm]
    refine Finset.sum_congr rfl fun i _ => ?_
    rw [mul_im, clockwise]
    ring

/-- Settles O53: the core's error, which is at most `3/4 N`, in each component. -/
theorem fftMatchesTheDirectSum : Obligations.FftMatchesTheDirectSum := by
  intro s n sz hn hbound
  refine ⟨runFft s sz, exec_fft_of_points hn, fun k hk => ?_⟩
  have hpoint : ∀ i, i < sz.points →
      (fftOperands s sz).pointAt i = ⟨real (entry s.xre i), real (entry s.xim i)⟩ := fun i hi => by
    rw [Work.pointAt, fftOperands, wordAt_operand_of_lt hi, wordAt_operand_of_lt hi, point]
  have hwithin : (fftOperands s sz).Within (2 ^ 22) := by
    refine .of_lt hasSize_fftOperands (by norm_num) fun i hi => ?_
    obtain ⟨hre, him⟩ := hbound i hi
    have hnorm := norm_point_le (entry s.xre i) (entry s.xim i)
    have hre' := abs_real_le hre
    have him' := abs_real_le him
    push_cast at hre' him'
    rw [hpoint i hi]
    exact hnorm.trans (by linarith)
  have hnear := fftCore_near_of_small hasSize_fftOperands hwithin hk
  rw [dft_congr hpoint, dft_eq_reference] at hnear
  have hN : 3 / 4 * (sz.points : ℝ) ≤ sz.points := by linarith [Nat.cast_nonneg (α := ℝ) sz.points]
  obtain ⟨hyre, hyim⟩ := entry_runFft (s := s) hk
  rw [hyre, hyim]
  exact ⟨((abs_re_le_norm _).trans hnear).trans hN, ((abs_im_le_norm _).trans hnear).trans hN⟩

end Sys2Proof.Machine

/-! The reference sums (R170) as sums over the points of a core: each engine reorders the terms, or turns an angle by
half and quarter turns. -/

namespace Sys2Proof.Machine

/-- Cosine a whole number of turns back. -/
theorem cos_turns_sub (m : Nat) (t : ℝ) : Real.cos (2 * Real.pi * m - t) = Real.cos t := by
  rw [← Real.cos_nat_mul_two_pi_sub t m]
  congr 1
  ring

/-- Cosine an odd number of half turns back. -/
theorem cos_odd_half_turns_sub (m : Nat) (t : ℝ) : Real.cos ((2 * m + 1) * Real.pi - t) = -Real.cos t := by
  have hcos := Real.cos_nat_mul_pi_sub t (2 * m + 1)
  rw [Odd.neg_one_pow ⟨m, rfl⟩, neg_one_mul] at hcos
  rw [← hcos]
  push_cast
  rfl

/-- Cosine an odd number of quarter turns back. -/
theorem cos_odd_quarter_turns_sub (m : Nat) (t : ℝ) :
    Real.cos (Real.pi * (m + 1 / 2) - t) = (-1) ^ m * Real.sin t := by
  rw [← Real.cos_sub_pi_div_two, ← Real.cos_nat_mul_pi_sub]
  congr 1
  ring

/-- A sum over pairs of neighbours. -/
theorem sum_even_odd {M : Type*} [AddCommMonoid M] (f : Nat → M) (h : Nat) :
    ∑ i ∈ Finset.range (2 * h), f i = ∑ i ∈ Finset.range h, (f (2 * i) + f (2 * i + 1)) := by
  induction h with
  | zero => rfl
  | succ h ih => rw [Nat.mul_succ, Finset.sum_range_succ, Finset.sum_range_succ, Finset.sum_range_succ, ih, add_assoc]

/-- A sum with its second half taken from its end. -/
theorem sum_front_back (f : Nat → ℝ) (h : Nat) :
    ∑ i ∈ Finset.range (2 * h), f i = ∑ i ∈ Finset.range h, (f i + f (2 * h - 1 - i)) := by
  rw [two_mul, Finset.sum_range_add, Finset.sum_add_distrib, ← Finset.sum_range_reflect (fun i => f (h + i))]
  refine congrArg _ (Finset.sum_congr rfl fun i hi => ?_)
  have hlt := Finset.mem_range.1 hi
  congr 1
  omega

section

variable {n : Nat} {x y : Nat → ℝ} (hxy : ∀ i, i < n → x i = y i) (k : Nat)

include hxy

/-- A reference sum reads `n` samples (R170). -/
theorem reference_dct2_congr : Reference.dct2 n x k = Reference.dct2 n y k :=
  Finset.sum_congr rfl fun i hi => congrArg (· * _) (hxy i (Finset.mem_range.1 hi))

theorem reference_dct3_congr : Reference.dct3 n x k = Reference.dct3 n y k :=
  Finset.sum_congr rfl fun i hi => congrArg (· * _) (hxy i (Finset.mem_range.1 hi))

theorem reference_dct4_congr : Reference.dct4 n x k = Reference.dct4 n y k :=
  Finset.sum_congr rfl fun i hi => congrArg (· * _) (hxy i (Finset.mem_range.1 hi))

theorem reference_dst2_congr : Reference.dst2 n x k = Reference.dst2 n y k :=
  Finset.sum_congr rfl fun i hi => congrArg (· * _) (hxy i (Finset.mem_range.1 hi))

end

section

variable {h : Nat} (hh : 0 < h) (x : Nat → ℝ) (k : Nat)

include hh

/-- The input permutation of `DCT2`: the odd samples stand backwards, at the angles of whole turns back (R171). -/
theorem dct2_sum_permuted :
    ∑ i ∈ Finset.range (2 * h), (if i < h then x (2 * i) else x (2 * (2 * h - 1 - i) + 1)) *
      Real.cos (2 * Real.pi * i * k / (2 * h : Nat) + Real.pi * k / (2 * (2 * h : Nat))) =
    Reference.dct2 (2 * h) x k := by
  have hh' : (h : ℝ) ≠ 0 := by positivity
  rw [sum_front_back, Reference.dct2, sum_even_odd]
  refine Finset.sum_congr rfl fun i hi => ?_
  have hlt := Finset.mem_range.1 hi
  have hback : 2 * h - 1 - (2 * h - 1 - i) = i := by omega
  rw [if_pos hlt, if_neg (by omega), hback]
  congr 2
  · congr 1
    push_cast
    field_simp
  · rw [← cos_turns_sub k]
    congr 1
    have hcast : ((2 * h - 1 - i : Nat) : ℝ) = 2 * h - 1 - i := by
      rw [Nat.cast_sub (by omega), Nat.cast_sub (by omega)]
      push_cast
      rfl
    rw [hcast]
    push_cast
    field_simp
    ring

end

/-- The sum of bin `m` of the core of `DCT3` (R172). -/
noncomputable def dct3Bin (n : Nat) (x : Nat → ℝ) (m : Nat) : ℝ :=
  ∑ i ∈ Finset.range n, x i * Real.cos (Real.pi / n * (2 * m + 1 / 2) * i)

theorem dct3_of_low_bin (n : Nat) (x : Nat → ℝ) (m : Nat) : Reference.dct3 n x (2 * m) = dct3Bin n x m := by
  simp only [Reference.dct3, dct3Bin]
  push_cast
  rfl

/-- The sum of bin `m` of the core of `DCT4` (R173). -/
noncomputable def dct4Bin (n : Nat) (x : Nat → ℝ) (m : Nat) : ℝ :=
  ∑ i ∈ Finset.range n, x i * Real.cos (Real.pi / n * (i + 1 / 2) * (2 * m + 1 / 2))

theorem dct4_of_low_bin (n : Nat) (x : Nat → ℝ) (m : Nat) : Reference.dct4 n x (2 * m) = dct4Bin n x m := by
  simp only [Reference.dct4, dct4Bin]
  push_cast
  rfl

section

variable {n : Nat} (hn : 0 < n) (x : Nat → ℝ)

include hn

/-- A bin counted from the end is whole turns back (R172). -/
theorem dct3_of_high_bin {m : Nat} (hm : m < n) : Reference.dct3 n x (2 * m + 1) = dct3Bin n x (n - 1 - m) := by
  have hn' : (n : ℝ) ≠ 0 := by positivity
  have hcast : ((n - 1 - m : Nat) : ℝ) = n - 1 - m := by
    have hnat : n - 1 - m + 1 + m = n := by omega
    have hreal : ((n - 1 - m : Nat) : ℝ) + 1 + m = n := mod_cast hnat
    linarith
  rw [Reference.dct3, dct3Bin]
  refine Finset.sum_congr rfl fun i _ => ?_
  rw [hcast, ← cos_turns_sub i]
  congr 2
  push_cast
  field_simp
  ring

/-- A bin counted from the end is an odd number of half turns back (R173). -/
theorem dct4_of_high_bin {m : Nat} (hm : m < n) : Reference.dct4 n x (2 * (n - 1 - m) + 1) = -dct4Bin n x m := by
  have hn' : (n : ℝ) ≠ 0 := by positivity
  have hcast : ((2 * (n - 1 - m) + 1 : Nat) : ℝ) = 2 * n - 1 - 2 * m := by
    have hnat : 2 * (n - 1 - m) + 1 + 2 * m + 1 = 2 * n := by omega
    have hreal : ((2 * (n - 1 - m) + 1 : Nat) : ℝ) + 2 * m + 1 = 2 * n := mod_cast hnat
    linarith
  rw [Reference.dct4, dct4Bin, ← Finset.sum_neg_distrib]
  refine Finset.sum_congr rfl fun i _ => ?_
  rw [hcast, ← mul_neg, ← cos_odd_half_turns_sub i]
  congr 2
  field_simp
  ring

/-- `DST2` is the `DCT2` of the alternated samples, read backwards (R174). -/
theorem dct2_of_alternated {k : Nat} (hk : k < n) :
    Reference.dct2 n (fun i => (-1) ^ i * x i) (n - 1 - k) = Reference.dst2 n x k := by
  have hn' : (n : ℝ) ≠ 0 := by positivity
  have hcast : ((n - 1 - k : Nat) : ℝ) = n - (k + 1) := by
    have hnat : n - 1 - k + (k + 1) = n := by omega
    have hreal : ((n - 1 - k : Nat) : ℝ) + (k + 1) = n := mod_cast hnat
    linarith
  rw [Reference.dct2, Reference.dst2]
  refine Finset.sum_congr rfl fun i _ => ?_
  have hangle : Real.pi / n * (i + 1 / 2) * (n - (k + 1)) =
      Real.pi * (i + 1 / 2) - Real.pi / n * (i + 1 / 2) * (k + 1) := by
    field_simp
  rw [hcast, hangle, cos_odd_quarter_turns_sub, mul_mul_mul_comm, ← mul_pow]
  simp

/-- `DST4` is the `DCT4` of the reversed samples, with alternating signs (R175). -/
theorem dct4_of_reversed (k : Nat) :
    Reference.dct4 n (fun i => x (n - 1 - i)) k = (-1) ^ k * Reference.dst4 n x k := by
  have hn' : (n : ℝ) ≠ 0 := by positivity
  rw [Reference.dct4, Reference.dst4, ← Finset.sum_range_reflect, Finset.mul_sum]
  refine Finset.sum_congr rfl fun i hi => ?_
  have hlt := Finset.mem_range.1 hi
  have hback : n - 1 - (n - 1 - i) = i := by omega
  have hcast : ((n - 1 - i : Nat) : ℝ) = n - 1 - i := by
    have hnat : n - 1 - i + 1 + i = n := by omega
    have hreal : ((n - 1 - i : Nat) : ℝ) + 1 + i = n := mod_cast hnat
    linarith
  have hangle : Real.pi / n * (n - 1 - i + 1 / 2) * (k + 1 / 2) =
      Real.pi * (k + 1 / 2) - Real.pi / n * (i + 1 / 2) * (k + 1 / 2) := by
    field_simp
    ring
  rw [hback, hcast, hangle, cos_odd_quarter_turns_sub]
  ring

end

end Sys2Proof.Machine

/-! The engines against their reference sums (R13, R170 to R175). Every engine is a core between a pre-modulation, which
adds at most 3/4 for each sample, and a post-modulation, which rounds once. -/

namespace Sys2Proof.Machine

open Complex Sys2Proof.Stating

/-- Terms of real data at exact angles, read at one more angle: the real part is a sum of cosines (R170). -/
theorem re_dft_mul_clockwise (n : Nat) (x θ : Nat → ℝ) (k : Nat) (φ : ℝ) :
    (dft n (fun i => x i * clockwise (θ i)) k * clockwise φ).re =
      ∑ i ∈ Finset.range n, x i * Real.cos (θ i + 2 * Real.pi * i * k / n + φ) := by
  rw [dft, Finset.sum_mul, re_sum]
  refine Finset.sum_congr rfl fun i _ => ?_
  rw [mul_assoc, mul_assoc, ← clockwise_add, ← clockwise_add, ← add_assoc, re_ofReal_mul, clockwise]

theorem points_pos (sz : Size) : 0 < sz.points := by cases sz <;> decide

/-- The angle of a table index that is a multiple of `c / N` (R171 to R173). -/
theorem table_angle (sz : Size) {c : Nat} (hc : 64 ∣ c) (m : Nat) :
    2 * Real.pi * (m * (c / sz.points) : Nat) / 512 = 2 * Real.pi * m * c / (512 * sz.points) := by
  have hdvd : sz.points ∣ c := Nat.dvd_trans (by cases sz <;> decide) hc
  have hN : (sz.points : ℝ) ≠ 0 := Nat.cast_ne_zero.2 (points_pos sz).ne'
  rw [Nat.cast_mul, Nat.cast_div hdvd hN]
  field_simp

/-- The index `m * (c / N)` is inside the tables. -/
theorem table_index_lt {sz : Size} {c m : Nat} (hm : m < sz.points) (hc : c ≤ 256) : m * (c / sz.points) < 256 := by
  have hmul : sz.points * (c / sz.points) ≤ c := Nat.mul_div_le c sz.points
  obtain h0 | hpos := Nat.eq_zero_or_pos (c / sz.points)
  · rw [h0, Nat.mul_zero]
    decide
  · have hlt := Nat.mul_lt_mul_of_pos_right hm hpos
    omega

/-- The indices of the pre-modulation of `DCT4` are inside the tables (R173). -/
theorem dct4_index_lt {sz : Size} {i : Nat} (hi : i < sz.points) : (2 * i + 1) * (64 / sz.points) < 256 := by
  cases sz <;> simp only [Size.points] at hi ⊢ <;> omega

/-- An accumulator in range, near an exact value, is rounded near it (R122). -/
theorem abs_rnd_sub_le {a : Int} {y e : ℝ} (hrange : |(a : ℝ) / 2 ^ 30| ≤ 3 * 2 ^ 29 + 2)
    (h : |(a : ℝ) / 2 ^ 30 - y| ≤ e) : |real (rnd a coefBits).val - y| ≤ 1 / 2 + e :=
  (abs_sub_le _ _ _).trans (add_le_add (rnd_of_abs_le hrange).2 h)

/-- The exact accumulator of a rotation of a pair that is near `D` is near the exact rotation of `D`. -/
theorem abs_rotation_sub_le {a b : Word} (h : ‖point a b‖ ≤ 3 * 2 ^ 29) {j : Nat} (hj : j < 256) {D : ℂ} {e : ℝ}
    (hD : ‖point a b - D‖ ≤ e) :
    |((a.toInt * twc j + b.toInt * tws j : Int) : ℝ) / 2 ^ 30 - (D * clockwise (2 * Real.pi * j / 512)).re| ≤
      3 / 2 + e := by
  have htable := norm_mul_twiddle_sub_le hj (point a b)
  have hturned : ‖point a b * clockwise (2 * Real.pi * j / 512) - D * clockwise (2 * Real.pi * j / 512)‖ ≤ e := by
    rwa [← sub_mul, norm_mul_clockwise]
  have hsum := (norm_sub_le_norm_sub_add_norm_sub _ _ _).trans (add_le_add htable hturned)
  have hre := (abs_re_le_norm _).trans hsum
  rw [sub_re, point_mul_twiddle] at hre
  refine hre.trans ?_
  linarith

theorem point_zero_eq (a : Word) : point a 0#32 = (real a : ℂ) := Complex.ext rfl real_zero

/-- The samples of a size have magnitude at most `2^21`. -/
def SmallSamples (sz : Size) (x : List Word) : Prop := ∀ i, i < sz.points → |real (wordAt x i)| ≤ 2 ^ 21

section

variable {sz : Size} {x : List Word} (hx : SmallSamples sz x)

include hx

section

variable {idx : Nat → Nat} (hidx : ∀ i, i < sz.points → idx i < 256)

include hidx

/-- The pre-modulation of R172 and R173, sample by sample. -/
theorem preRotate_near {i : Nat} (hi : i < sz.points) :
    ‖(preRotate sz.points x idx).pointAt i - real (wordAt x i) * clockwise (2 * Real.pi * idx i / 512)‖ ≤ 3 / 4 := by
  have hnorm : ‖point (wordAt x i) 0#32‖ ≤ 2 ^ 21 := (norm_point_zero _).trans_le (hx i hi)
  have hrot := norm_rot_sub_clockwise_le (hnorm.trans (by norm_num)) (hidx i hi)
  rw [Work.pointAt, preRotate, wordAt_markedList, wordAt_markedList, if_pos hi, if_pos hi, ← point_zero_eq]
  refine hrot.trans ?_
  linarith

theorem preRotate_within : (preRotate sz.points x idx).Within (2 ^ 22) := by
  refine .of_lt (hasSize_preRotate _ _ _) (by norm_num) fun i hi => ?_
  have hnear := (norm_sub_norm_le _ _).trans (preRotate_near hx hidx hi)
  rw [norm_mul_clockwise, norm_real, Real.norm_eq_abs] at hnear
  linarith [hx i hi]

/-- The core after a pre-modulation is the sum of the exactly rotated samples within `3/2 N`. -/
theorem fftCore_preRotate_near {k : Nat} (hk : k < sz.points) :
    ‖(fftCore sz.bits (preRotate sz.points x idx)).pointAt (bitrev sz.bits k) -
      dft sz.points (fun i => real (wordAt x i) * clockwise (2 * Real.pi * idx i / 512)) k‖ ≤ 3 / 2 * sz.points := by
  have hcore := fftCore_near_of_small (hasSize_preRotate sz.points x idx) (preRotate_within hx hidx) hk
  have hinput := norm_dft_sub_le (fun i hi => preRotate_near hx hidx (i := i) hi) k
  exact (norm_sub_le_norm_sub_add_norm_sub _ _ _).trans ((add_le_add hcore hinput).trans_eq (by ring))

end

end

/-- The operands of the core of `DCT2` (R171). -/
def dct2Operands (sz : Size) (x : List Word) : Work :=
  { re := (List.range sz.points).map fun i =>
      if i < sz.points / 2 then wordAt x (2 * i) else wordAt x (2 * (sz.points - 1 - i) + 1)
    im := List.replicate sz.points 0#32
    mark := false }

theorem dct2Core_eq (sz : Size) (x : List Word) : dct2Core sz x = fftCore sz.bits (dct2Operands sz x) := rfl

theorem hasSize_dct2Operands (sz : Size) (x : List Word) : (dct2Operands sz x).HasSize sz.points :=
  ⟨by simp [dct2Operands], by simp [dct2Operands]⟩

/-- The permuted samples of `DCT2` (R171). -/
noncomputable def dct2Sample (sz : Size) (x : List Word) (i : Nat) : ℝ :=
  if i < sz.points / 2 then real (wordAt x (2 * i)) else real (wordAt x (2 * (sz.points - 1 - i) + 1))

theorem pointAt_dct2Operands {sz : Size} (x : List Word) {i : Nat} (hi : i < sz.points) :
    (dct2Operands sz x).pointAt i = dct2Sample sz x i * clockwise 0 := by
  rw [Work.pointAt, dct2Operands, wordAt_mapRange, if_pos hi, wordAt_replicate_zero, point_zero_eq, apply_ite real,
    clockwise_zero, mul_one, dct2Sample]

/-- The sum that the core and the post-modulation of `DCT2` form is the reference (R170, R171). -/
theorem dct2_reference (sz : Size) (x : List Word) (k : Nat) :
    (dft sz.points (fun i => dct2Sample sz x i * clockwise 0) k *
      clockwise (2 * Real.pi * (k * (128 / sz.points) : Nat) / 512)).re =
    Reference.dct2 sz.points (fun i => real (wordAt x i)) k := by
  have hhalf := two_mul_half_points sz
  have hpos := points_pos sz
  have hN : (sz.points : ℝ) ≠ 0 := Nat.cast_ne_zero.2 hpos.ne'
  have hsum := dct2_sum_permuted (h := sz.points / 2) (by omega) (fun i => real (wordAt x i)) k
  rw [hhalf] at hsum
  rw [re_dft_mul_clockwise, table_angle sz (by decide), ← hsum]
  refine Finset.sum_congr rfl fun i _ => ?_
  rw [dct2Sample]
  congr 2
  push_cast
  field_simp
  ring

/-- The sum that the pre-modulation and the core of `DCT3` form (R172). -/
theorem dct3_bin_reference (sz : Size) (x : Nat → ℝ) (m : Nat) :
    (dft sz.points (fun i => x i * clockwise (2 * Real.pi * (i * (128 / sz.points) : Nat) / 512)) m).re =
    dct3Bin sz.points x m := by
  have hN : (sz.points : ℝ) ≠ 0 := Nat.cast_ne_zero.2 (points_pos sz).ne'
  rw [← mul_one (dft _ _ _), ← clockwise_zero, re_dft_mul_clockwise, dct3Bin]
  refine Finset.sum_congr rfl fun i _ => ?_
  rw [table_angle sz (by decide)]
  congr 2
  push_cast
  field_simp
  ring

/-- The sum that the pre-modulation, the core and the post-modulation of `DCT4` form (R173). -/
theorem dct4_bin_reference (sz : Size) (x : Nat → ℝ) (m : Nat) :
    (dft sz.points (fun i => x i * clockwise (2 * Real.pi * ((2 * i + 1) * (64 / sz.points) : Nat) / 512)) m *
      clockwise (2 * Real.pi * (m * (256 / sz.points) : Nat) / 512)).re =
    dct4Bin sz.points x m := by
  have hN : (sz.points : ℝ) ≠ 0 := Nat.cast_ne_zero.2 (points_pos sz).ne'
  rw [re_dft_mul_clockwise, dct4Bin, table_angle sz (by decide)]
  refine Finset.sum_congr rfl fun i _ => ?_
  rw [table_angle sz (by decide)]
  congr 2
  push_cast
  field_simp
  ring

section

variable {sz : Size} {x : List Word} (hx : SmallSamples sz x) {k : Nat} (hk : k < sz.points)

include hx

theorem dct2Operands_within : (dct2Operands sz x).Within (2 ^ 22) := by
  have hhalf := two_mul_half_points sz
  refine .of_lt (hasSize_dct2Operands sz x) (by norm_num) fun i hi => ?_
  rw [pointAt_dct2Operands x hi, norm_mul_clockwise, norm_real, Real.norm_eq_abs, dct2Sample]
  split_ifs
  · exact (hx _ (by omega)).trans (by norm_num)
  · exact (hx _ (by omega)).trans (by norm_num)

include hk

/-- `DCT2`: the core on the permuted samples, and one rotation (R171). -/
theorem dct2_near :
    |real (wordAt (dct2 sz x).val k) - Reference.dct2 sz.points (fun i => real (wordAt x i)) k| ≤ 2 * sz.points := by
  have hN : (16 : ℝ) ≤ sz.points := by cases sz <;> norm_num [Size.points]
  have hwithin := dct2Operands_within hx
  have hcore := fftCore_near_of_small (hasSize_dct2Operands sz x) hwithin hk
  rw [dft_congr fun i hi => pointAt_dct2Operands x hi] at hcore
  have hrange := (fftCore_within_of_small (sz := sz) hwithin).bound (bitrev sz.bits k)
  have hout := abs_rnd_sub_le (abs_rotation_le hrange (k * (128 / sz.points))).1
    (abs_rotation_sub_le hrange (table_index_lt hk (by decide)) hcore)
  rw [dct2_reference] at hout
  rw [dct2_eq, wordAt_markedList, if_pos hk]
  exact hout.trans (by linarith)

omit hk in
/-- Bin `m` of the core of `DCT3` (R172). -/
theorem dct3Core_near {m : Nat} (hm : m < sz.points) :
    |real (wordAt (dct3Core sz x).re (bitrev sz.bits m)) - dct3Bin sz.points (fun i => real (wordAt x i)) m| ≤
      2 * sz.points := by
  have hcore := fftCore_preRotate_near hx (fun i hi => table_index_lt (c := 128) hi (by decide)) hm
  have hre := (abs_re_le_norm _).trans hcore
  rw [sub_re, dct3_bin_reference] at hre
  exact hre.trans (by linarith [Nat.cast_nonneg (α := ℝ) sz.points])

/-- `DCT3`: each output is a bin of the core (R172). -/
theorem dct3_near :
    |real (wordAt (dct3 sz x).val k) - Reference.dct3 sz.points (fun i => real (wordAt x i)) k| ≤ 2 * sz.points := by
  have hhalf := two_mul_half_points sz
  obtain ⟨m, rfl | rfl⟩ := Nat.even_or_odd' k
  · rw [(wordAt_dct3_pair sz x (by omega)).1, dct3_of_low_bin]
    exact dct3Core_near hx (by omega)
  · rw [(wordAt_dct3_pair sz x (by omega)).2, dct3_of_high_bin (points_pos sz) _ (by omega)]
    exact dct3Core_near hx (by omega)

omit hk in
/-- The core of `DCT4` stays in range (R133, R173). -/
theorem dct4Core_within : (dct4Core sz x).Within (3 * 2 ^ 29) :=
  fftCore_within_of_small (preRotate_within hx fun _ hi => dct4_index_lt hi)

omit hk in
/-- The accumulator of bin `m` of `DCT4` is in range, and near its sum (R173). -/
theorem dct4Sum_near {m : Nat} (hm : m < sz.points) :
    |(dct4Sum sz (dct4Core sz x) m : ℝ) / 2 ^ 30| ≤ 3 * 2 ^ 29 + 2 ∧
    |(dct4Sum sz (dct4Core sz x) m : ℝ) / 2 ^ 30 - dct4Bin sz.points (fun i => real (wordAt x i)) m| ≤
      3 / 2 + 3 / 2 * (sz.points : ℝ) := by
  have hcore := fftCore_preRotate_near hx (fun _ hi => dct4_index_lt hi) hm
  have hrange := (dct4Core_within hx).bound (bitrev sz.bits m)
  have hrotated := abs_rotation_sub_le hrange (table_index_lt (c := 256) hm (by decide)) hcore
  rw [dct4_bin_reference] at hrotated
  exact ⟨(abs_rotation_le hrange _).1, hrotated⟩

/-- `DCT4`: each output rounds the accumulator of its bin, or its negative (R173). -/
theorem dct4_near :
    |real (wordAt (dct4 sz x).val k) - Reference.dct4 sz.points (fun i => real (wordAt x i)) k| ≤ 2 * sz.points := by
  have hN : (16 : ℝ) ≤ sz.points := by cases sz <;> norm_num [Size.points]
  obtain ⟨m, hm, rfl⟩ := exists_dct4Slot_eq hk
  obtain ⟨hrange, hnear⟩ := dct4Sum_near hx hm
  rw [wordAt_dct4 sz x hk, dct4Out_dct4Slot sz _ hm, dct4Slot]
  split_ifs
  · rw [dct4_of_low_bin]
    exact (abs_rnd_sub_le hrange hnear).trans (by linarith)
  · rw [dct4_of_high_bin (points_pos sz) _ hm]
    refine (abs_rnd_sub_le (e := 3 / 2 + 3 / 2 * sz.points) ?_ ?_).trans (by linarith)
    · rwa [Int.cast_neg, neg_div, abs_neg]
    · rwa [Int.cast_neg, neg_div, neg_sub_neg, abs_sub_comm]

end

/-- An alternating sign may stand on either side of a distance. -/
theorem abs_alternated_sub (k : Nat) (x y : ℝ) : |(-1) ^ k * x - y| = |x - (-1) ^ k * y| := by
  obtain heven | hodd := k.even_or_odd
  · rw [heven.neg_one_pow, one_mul, one_mul]
  · rw [hodd.neg_one_pow, neg_one_mul, neg_one_mul, sub_neg_eq_add, ← abs_neg, neg_sub, sub_neg_eq_add, add_comm]

/-- `WR` negates a word of magnitude below `2^31` exactly. -/
theorem real_wr_neg {w : Word} (hw : |real w| < 2 ^ 31) : real (wr (-w.toInt)).val = -real w := by
  have hlt : |((-w.toInt : Int) : ℝ)| < 2 ^ 31 := by rwa [Int.cast_neg, abs_neg]
  exact (wr_of_abs_lt hlt).2.trans (Int.cast_neg _)

/-- The sign alternation in range is exact (R174, R175). -/
theorem real_negateOdd {x : List Word} {n k : Nat} (hk : k < n) (hx : |real (wordAt x k)| < 2 ^ 31) :
    real (wordAt (negateOdd n x).val k) = (-1) ^ k * real (wordAt x k) := by
  rw [wordAt_negateOdd x hk]
  split_ifs with heven
  · rw [(Nat.even_iff.2 heven).neg_one_pow, one_mul]
  · rw [real_wr_neg hx, (Nat.odd_iff.2 (by omega)).neg_one_pow, neg_one_mul]

section

variable {sz : Size} {x : List Word} (hx : SmallSamples sz x) {k : Nat} (hk : k < sz.points)

include hx hk

/-- `DST2`: the `DCT2` of the alternated samples, read backwards (R174). -/
theorem dst2_near :
    |real (wordAt (dst2 sz x).val k) - Reference.dst2 sz.points (fun i => real (wordAt x i)) k| ≤ 2 * sz.points := by
  have halternated : ∀ i, i < sz.points →
      real (wordAt (negateOdd sz.points x).val i) = (-1) ^ i * real (wordAt x i) := fun i hi =>
    real_negateOdd hi ((hx i hi).trans_lt (by norm_num))
  have hsmall : SmallSamples sz (negateOdd sz.points x).val := fun i hi => by
    rw [halternated i hi, abs_mul, abs_neg_one_pow, one_mul]
    exact hx i hi
  have hnear := dct2_near hsmall (k := sz.points - 1 - k) (by omega)
  have hsum : Reference.dct2 sz.points (fun i => real (wordAt (negateOdd sz.points x).val i)) (sz.points - 1 - k) =
      Reference.dst2 sz.points (fun i => real (wordAt x i)) k := by
    rw [← dct2_of_alternated (points_pos sz) _ hk]
    exact reference_dct2_congr halternated _
  rwa [wordAt_dst2 sz x hk, ← hsum]

/-- `DST4`: the `DCT4` of the reversed samples, with alternating signs (R175). -/
theorem dst4_near :
    |real (wordAt (dst4 sz x).val k) - Reference.dst4 sz.points (fun i => real (wordAt x i)) k| ≤ 2 * sz.points := by
  set xr := (List.range sz.points).map fun i => wordAt x (sz.points - 1 - i) with hxr
  have hreversed : ∀ i, i < sz.points → wordAt xr i = wordAt x (sz.points - 1 - i) := fun i hi => by
    rw [hxr, wordAt_mapRange, if_pos hi]
  have hsmall : SmallSamples sz xr := fun i hi => by
    rw [hreversed i hi]
    exact hx _ (by omega)
  have hnear := dct4_near hsmall hk
  have hsum : Reference.dct4 sz.points (fun i => real (wordAt xr i)) k =
      (-1) ^ k * Reference.dst4 sz.points (fun i => real (wordAt x i)) k := by
    rw [← dct4_of_reversed (points_pos sz)]
    exact reference_dct4_congr (fun i hi => congrArg real (hreversed i hi)) k
  have hrange : |real (wordAt (dct4 sz xr).val k)| < 2 ^ 31 := by
    rw [wordAt_dct4 sz xr hk]
    exact (dct4Out_of_within (dct4Core_within hsmall) k).2.trans_lt (by norm_num)
  have hout : real (wordAt (dst4 sz x).val k) = (-1) ^ k * real (wordAt (dct4 sz xr).val k) :=
    real_negateOdd hk hrange
  rwa [hout, abs_alternated_sub, ← hsum]

end

/-- Settles O54, engine by engine. -/
theorem enginesMatchTheirDirectSums : Obligations.EnginesMatchTheirDirectSums := by
  intro sz x hbound k hk
  have hx : SmallSamples sz x := fun i hi => (abs_real_le (hbound i hi)).trans_eq (by norm_num)
  exact ⟨dct2_near hx hk, dct3_near hx hk, dct4_near hx hk, dst2_near hx hk, dst4_near hx hk⟩

end Sys2Proof.Machine

/-! The analysis modulations against their references (R206, R207): the fold and the sequence x' bring the 64 windowed
sums to the angles of `DCT3` and `DCT4`. -/

namespace Sys2Proof.Machine

open Sys2Proof.Stating

/-- A sum of terms of magnitude at most `B`, each with a factor of magnitude at most 1. -/
theorem abs_sum_mul_le {n : Nat} {x c : Nat → ℝ} {B : ℝ} (hx : ∀ i, i < n → |x i| ≤ B) (hc : ∀ i, |c i| ≤ 1) :
    |∑ i ∈ Finset.range n, x i * c i| ≤ n * B := by
  have hterm : ∀ i ∈ Finset.range n, |x i * c i| ≤ B := fun i hi => by
    rw [abs_mul]
    exact (mul_le_of_le_one_right (abs_nonneg _) (hc i)).trans (hx i (Finset.mem_range.1 hi))
  refine (Finset.abs_sum_le_sum_abs _ _).trans ((Finset.sum_le_sum hterm).trans_eq ?_)
  rw [Finset.sum_const, Finset.card_range, nsmul_eq_mul]

section

variable {n : Nat} {x : Nat → ℝ} {B : ℝ} (hx : ∀ i, i < n → |x i| ≤ B) (k : Nat)

include hx

/-- A reference sum of `n` samples is at most `n` times as large as they are (R170). -/
theorem abs_reference_dct2_le : |Reference.dct2 n x k| ≤ n * B := abs_sum_mul_le hx fun _ => Real.abs_cos_le_one _

theorem abs_reference_dct3_le : |Reference.dct3 n x k| ≤ n * B := abs_sum_mul_le hx fun _ => Real.abs_cos_le_one _

theorem abs_reference_dct4_le : |Reference.dct4 n x k| ≤ n * B := abs_sum_mul_le hx fun _ => Real.abs_cos_le_one _

end

/-- `y` is the fold of the 64 values `u` (R206). -/
structure IsLpFold (u y : Nat → ℝ) : Prop where
  zero : y 0 = u 48
  low : ∀ i, i < 15 → y (1 + i) = u (49 + i) + u (47 - i)
  high : ∀ i, i < 16 → y (16 + i) = -u i + u (32 - i)

/-- `x` is the sequence x' of the 64 values `u` (R207). -/
structure IsHqSequence (u x : Nat → ℝ) : Prop where
  zero : x 0 = u 0
  last : x 63 = u 32
  odd : ∀ i, i < 31 → x (2 * i + 1) = u (i + 1)
  even : ∀ i, i < 31 → x (2 * i + 2) = -u (63 - i)

/-- The order in which the fold takes 64 terms. -/
theorem sum_fold_order (f : Nat → ℝ) :
    ∑ n ∈ Finset.range 64, f n =
      f 16 + f 48 + ∑ i ∈ Finset.range 15, (f (49 + i) + f (47 - i)) + ∑ i ∈ Finset.range 16, (f i + f (32 - i)) := by
  simp only [Finset.sum_range_succ, Finset.sum_range_zero]
  ring

/-- The 64 terms in the order that the sequence x' takes the windowed sums. -/
theorem sum_sequence_order (f : Nat → ℝ) :
    ∑ n ∈ Finset.range 64, f n = f 0 + f 32 + ∑ i ∈ Finset.range 31, (f (i + 1) + f (63 - i)) := by
  simp only [Finset.sum_range_succ, Finset.sum_range_zero]
  ring

section

variable {u : Nat → ℝ} (k : Nat)

/-- The low-power reference is twice the `DCT3` of the fold: the angle of `u[16]` is an odd number of quarter turns, and
those of `u[0..15]` are an odd number of half turns back (R206). -/
theorem analysisLp_eq_dct3 {y : Nat → ℝ} (hy : IsLpFold u y) :
    Reference.analysisLp u k = 2 * Reference.dct3 32 y k := by
  have hquarter : Real.cos (Real.pi / 32 * (k + 1 / 2) * ((16 : Nat) - 48)) = 0 := by
    rw [← Real.cos_neg, show -(Real.pi / 32 * (k + 1 / 2) * ((16 : Nat) - 48)) = Real.pi * (k + 1 / 2) - 0 by
      push_cast; ring, cos_odd_quarter_turns_sub, Real.sin_zero, mul_zero]
  have hsplit : ∀ g : Nat → ℝ, ∑ n ∈ Finset.range 32, g n =
      g 0 + ∑ i ∈ Finset.range 15, g (1 + i) + ∑ i ∈ Finset.range 16, g (16 + i) := fun g => by
    simp only [Finset.sum_range_succ, Finset.sum_range_zero]
    ring
  rw [Reference.analysisLp, Reference.dct3, sum_fold_order, hsplit, hquarter, mul_zero, zero_add, hy.zero]
  congr 1
  congr 1
  · congr 1
    · simp
    · refine Finset.sum_congr rfl fun i hi => ?_
      have hlt := Finset.mem_range.1 hi
      have hcast : ((47 - i : Nat) : ℝ) = 47 - i := by rw [Nat.cast_sub (by omega)]; rfl
      have hback : Real.cos (Real.pi / 32 * (k + 1 / 2) * (47 - i - 48)) =
          Real.cos (Real.pi / 32 * (k + 1 / 2) * (1 + i)) := by
        rw [← Real.cos_neg]
        congr 1
        ring
      rw [hy.low i hlt, hcast, hback]
      push_cast
      ring_nf
  · refine Finset.sum_congr rfl fun i hi => ?_
    have hlt := Finset.mem_range.1 hi
    have hcast : ((32 - i : Nat) : ℝ) = 32 - i := by rw [Nat.cast_sub (by omega)]; rfl
    have hback : Real.cos (Real.pi / 32 * (k + 1 / 2) * (32 - i - 48)) =
        Real.cos (Real.pi / 32 * (k + 1 / 2) * (16 + i)) := by
      rw [← Real.cos_neg]
      congr 1
      ring
    have hhalf : Real.cos (Real.pi / 32 * (k + 1 / 2) * (i - 48)) =
        -Real.cos (Real.pi / 32 * (k + 1 / 2) * (16 + i)) := by
      rw [← cos_odd_half_turns_sub k, ← Real.cos_neg]
      congr 1
      ring
    rw [hy.high i hlt, hcast, hback, hhalf]
    push_cast
    ring

end

/-- The 64 windowed sums with the factors `c` are the sequence x' with the factors `d`, where these agree along the
sequence and differ in sign where it negates (R207). -/
theorem sum_hqSequence {u x c d : Nat → ℝ} (hx : IsHqSequence u x) (hzero : c 0 = d 0) (hlast : c 32 = d 63)
    (hodd : ∀ i, i < 31 → c (i + 1) = d (2 * i + 1)) (heven : ∀ i, i < 31 → c (63 - i) = -d (2 * i + 2)) :
    ∑ n ∈ Finset.range 64, u n * c n = ∑ m ∈ Finset.range 64, x m * d m := by
  have hsplit : ∀ g : Nat → ℝ, ∑ m ∈ Finset.range 64, g m =
      g 0 + g 63 + ∑ i ∈ Finset.range 31, (g (2 * i + 1) + g (2 * i + 2)) := fun g => by
    simp only [Finset.sum_range_succ, Finset.sum_range_zero]
    ring
  rw [sum_sequence_order, hsplit, hx.zero, hx.last, hzero, hlast]
  refine congrArg _ (Finset.sum_congr rfl fun i hi => ?_)
  have hlt := Finset.mem_range.1 hi
  rw [hx.odd i hlt, hx.even i hlt, hodd i hlt, heven i hlt]
  ring

/-- The angle of the windowed sum `63 - i` in a high-quality slot, from an odd number of half turns (R207). -/
theorem hq_angle_back (k : Nat) {i : Nat} (hi : i < 31) :
    Real.pi / 64 * (k + 1 / 2) * (2 * (63 - i : Nat) - 1 / 2) =
      (2 * k + 1) * Real.pi - Real.pi / 64 * ((2 * i + 2 : Nat) + 1 / 2) * (k + 1 / 2) := by
  have hcast : ((63 - i : Nat) : ℝ) = 63 - i := by rw [Nat.cast_sub (by omega)]; rfl
  rw [hcast]
  push_cast
  ring

/-- Sine an odd number of half turns back. -/
theorem sin_odd_half_turns_sub (m : Nat) (t : ℝ) : Real.sin ((2 * m + 1) * Real.pi - t) = Real.sin t := by
  have hsin := Real.sin_nat_mul_pi_sub t (2 * m + 1)
  rw [Odd.neg_one_pow ⟨m, rfl⟩, neg_one_mul, neg_neg] at hsin
  rw [← hsin]
  push_cast
  rfl

section

variable {u x : Nat → ℝ} (hx : IsHqSequence u x) (k : Nat)

include hx

/-- The real part of the high-quality reference is twice the `DCT4` of the sequence x' (R207). -/
theorem analysisHqRe_eq_dct4 : Reference.analysisHqRe u k = 2 * Reference.dct4 64 x k := by
  refine congrArg (2 * ·) (sum_hqSequence hx ?_ ?_ (fun i _ => ?_) fun i hi => ?_)
  · rw [← Real.cos_neg]
    congr 1
    push_cast
    ring
  · congr 1
    push_cast
    ring
  · congr 1
    push_cast
    ring
  · rw [hq_angle_back k hi, cos_odd_half_turns_sub]
    rfl

/-- The imaginary part is, negated, twice the `DCT4` of the sequence x' at the band counted from the end (R207). -/
theorem analysisHqIm_eq_dct4 (hk : k < 64) : Reference.analysisHqIm u k = -2 * Reference.dct4 64 x (63 - k) := by
  have hcast : ((63 - k : Nat) : ℝ) = 63 - k := by rw [Nat.cast_sub (by omega)]; rfl
  have hangle : ∀ m : Nat, Real.cos (Real.pi / (64 : Nat) * (m + 1 / 2) * ((63 - k : Nat) + 1 / 2)) =
      (-1) ^ m * Real.sin (Real.pi / 64 * (m + 1 / 2) * (k + 1 / 2)) := fun m => by
    rw [← cos_odd_quarter_turns_sub, hcast]
    congr 1
    push_cast
    ring
  rw [Reference.dct4, neg_mul, ← mul_neg, ← Finset.sum_neg_distrib]
  simp only [hangle, ← mul_neg]
  refine congrArg (2 * ·) (sum_hqSequence hx ?_ ?_ (fun i _ => ?_) fun i hi => ?_)
  · rw [pow_zero, one_mul, ← Real.sin_neg]
    congr 1
    push_cast
    ring
  · rw [Odd.neg_one_pow (by decide), neg_one_mul, neg_neg]
    congr 1
    push_cast
    ring
  · rw [Odd.neg_one_pow ⟨i, rfl⟩, neg_one_mul, neg_neg]
    congr 1
    push_cast
    ring
  · rw [hq_angle_back k hi, sin_odd_half_turns_sub, Even.neg_one_pow ⟨i + 1, by ring⟩, one_mul, neg_neg]

end

/-- `WR` of an exact value in range, doubled or not (R121). -/
theorem real_wr {v : Int} (h : |(v : ℝ)| < 2 ^ 31) : real (wr v).val = v := (wr_of_abs_lt h).2

section

variable {u : List Word} (hu : ∀ n, n < 64 → |real (wordAt u n)| ≤ 2 ^ 20)

include hu

/-- The fold of windowed sums up to `2^20` is exact (R206). -/
theorem isLpFold_lpFold :
    IsLpFold (fun n => real (wordAt u n)) (fun n => real (wordAt (lpFold u).val n)) := by
  have hadd : ∀ v w : Int, |(v : ℝ)| ≤ 2 ^ 20 → |(w : ℝ)| ≤ 2 ^ 20 → real (wr (v + w)).val = v + w := fun v w hv hw => by
    rw [real_wr, Int.cast_add]
    rw [Int.cast_add]
    exact (abs_add_le _ _).trans_lt (by linarith)
  refine ⟨rfl, fun i hi => ?_, fun i hi => ?_⟩
  · have hfront : 1 + i + 48 = 49 + i := by omega
    have hback : 48 - (1 + i) = 47 - i := by omega
    rw [wordAt_lpFold u (by omega), lpFoldEntry_of_le_15 u (by omega) (by omega), hfront, hback]
    exact hadd _ _ (hu _ (by omega)) (hu _ (by omega))
  · have hfront : 16 + i - 16 = i := by omega
    have hback : 48 - (16 + i) = 32 - i := by omega
    rw [wordAt_lpFold u (by omega), lpFoldEntry_of_16_le u (by omega), hfront, hback,
      hadd _ _ (by rw [Int.cast_neg, abs_neg]; exact hu _ (by omega)) (hu _ (by omega)), Int.cast_neg]
    rfl

/-- The sequence x' of windowed sums up to `2^20` is exact (R207). -/
theorem isHqSequence_hqSequence :
    IsHqSequence (fun n => real (wordAt u n)) (fun n => real (wordAt (hqSequence u).val n)) := by
  refine ⟨rfl, rfl, fun i hi => ?_, fun i hi => ?_⟩
  · rw [wordAt_hqSequence u (by omega), hqEntry_odd u (by omega)]
  · rw [wordAt_hqSequence u (by omega), hqEntry_even u (by omega),
      real_wr_neg ((hu _ (by omega)).trans_lt (by norm_num))]

end

/-- The fold at most doubles the magnitudes. -/
theorem IsLpFold.abs_le {u y : Nat → ℝ} (hy : IsLpFold u y) {B : ℝ} (hu : ∀ n, n < 64 → |u n| ≤ B) :
    ∀ n, n < 32 → |y n| ≤ 2 * B := by
  intro n hn
  have hB : 0 ≤ B := (abs_nonneg _).trans (hu 0 (by decide))
  obtain rfl | ⟨i, hi, rfl⟩ | ⟨i, hi, rfl⟩ :
      n = 0 ∨ (∃ i, i < 15 ∧ n = 1 + i) ∨ ∃ i, i < 16 ∧ n = 16 + i := by
    obtain h0 | hlow | hhigh : n = 0 ∨ (1 ≤ n ∧ n < 16) ∨ 16 ≤ n := by omega
    · exact .inl h0
    · exact .inr (.inl ⟨n - 1, by omega, by omega⟩)
    · exact .inr (.inr ⟨n - 16, by omega, by omega⟩)
  · rw [hy.zero]
    linarith [hu 48 (by decide)]
  · rw [hy.low i hi]
    exact (abs_add_le _ _).trans (by linarith [hu (49 + i) (by omega), hu (47 - i) (by omega)])
  · rw [hy.high i hi]
    refine (abs_add_le _ _).trans ?_
    rw [abs_neg]
    linarith [hu i (by omega), hu (32 - i) (by omega)]

/-- The sequence x' keeps the magnitudes. -/
theorem IsHqSequence.abs_le {u x : Nat → ℝ} (hx : IsHqSequence u x) {B : ℝ} (hu : ∀ n, n < 64 → |u n| ≤ B) :
    ∀ n, n < 64 → |x n| ≤ B := by
  intro n hn
  obtain rfl | rfl | ⟨i, hi, rfl⟩ | ⟨i, hi, rfl⟩ := hqEntry_index_cases hn
  · rw [hx.zero]
    exact hu 0 (by decide)
  · rw [hx.last]
    exact hu 32 (by decide)
  · rw [hx.odd i (by omega)]
    exact hu _ (by omega)
  · rw [hx.even i (by omega), abs_neg]
    exact hu _ (by omega)

/-- Doubling a result, with either sign, doubles its distance to its reference. -/
theorem real_wr_mul_near {w : Word} {c : Int} {D e : ℝ} (hc : |(c : ℝ)| = 2) (hnear : |real w - D| ≤ e)
    (hrange : |D| + e < 2 ^ 30) : |real (wr (c * w.toInt)).val - c * D| ≤ 2 * e := by
  have hw : |real w| ≤ |D| + e := by linarith [abs_sub_abs_le_abs_sub (real w) D]
  have hmul : real (wr (c * w.toInt)).val = c * real w := by
    have hlt : |((c * w.toInt : Int) : ℝ)| < 2 ^ 31 := by
      rw [Int.cast_mul, abs_mul, hc]
      change 2 * |real w| < 2 ^ 31
      linarith
    rw [real_wr hlt, Int.cast_mul]
    rfl
  rw [hmul, ← mul_sub, abs_mul, hc]
  linarith

/-- Settles O55: both modulations are twice an engine on data that the step before it forms exactly. -/
theorem analysisModulationMatchesTheReference : Obligations.AnalysisModulationMatchesTheReference := by
  intro u hbound k hk
  have hu : ∀ n, n < 64 → |real (wordAt u n)| ≤ 2 ^ 20 := fun n hn =>
    (abs_real_le (hbound n hn)).trans_eq (by norm_num)
  have hfold := isLpFold_lpFold hu
  have hsequence := isHqSequence_hqSequence hu
  have hsmall32 : SmallSamples .n32 (lpFold u).val := fun i hi =>
    (hfold.abs_le hu i hi).trans (by norm_num)
  have hsmall64 : SmallSamples .n64 (hqSequence u).val := fun i hi =>
    (hsequence.abs_le hu i hi).trans (by norm_num)
  have hdct3 := abs_reference_dct3_le hsmall32 k
  have hdct4 := abs_reference_dct4_le hsmall64
  obtain ⟨hre, him⟩ := wordAt_amodHq u hk
  rw [wordAt_amodLp_re u hk, hre, him, analysisLp_eq_dct3 k hfold, analysisHqRe_eq_dct4 hsequence k,
    analysisHqIm_eq_dct4 hsequence k (by omega)]
  simp only [Size.points] at hdct3 hdct4
  push_cast at hdct3 hdct4
  have hlp := real_wr_mul_near (c := 2) (by norm_num) (dct3_near hsmall32 hk)
    (by simp only [Size.points]; push_cast; linarith)
  have hhq := fun (c : Int) (hc : |(c : ℝ)| = 2) (m : Nat) (hm : m < 64) =>
    real_wr_mul_near hc (dct4_near hsmall64 hm) (by simp only [Size.points]; push_cast; linarith [hdct4 m])
  simp only [Size.points] at hlp hhq
  push_cast at hlp hhq
  refine ⟨hlp.trans (by norm_num), ?_, ?_⟩
  · have hre := hhq 2 (by norm_num) k (by omega)
    push_cast at hre
    exact hre.trans (by norm_num)
  · have him := hhq (-2) (by norm_num) (63 - k) (by omega)
    push_cast at him
    exact him.trans (by norm_num)

end Sys2Proof.Machine

/-! The synthesis block against its reference (R232, R234, R235, R238, R239): the reference block is made of the engines'
reference sums, on the subbands scaled down. -/

namespace Sys2Proof.Machine

open Sys2Proof.Stating

section

variable {n : Nat} {x y : Nat → ℝ} {e : ℝ} (hxy : ∀ i, i < n → |x i - y i| ≤ e) (k : Nat)

include hxy

/-- Samples that differ by at most `e` give sums that differ by at most `n e`. -/
theorem abs_reference_dct2_sub_le : |Reference.dct2 n x k - Reference.dct2 n y k| ≤ n * e := by
  simp only [Reference.dct2, ← Finset.sum_sub_distrib, ← sub_mul]
  exact abs_sum_mul_le hxy fun _ => Real.abs_cos_le_one _

theorem abs_reference_dct4_sub_le : |Reference.dct4 n x k - Reference.dct4 n y k| ≤ n * e := by
  simp only [Reference.dct4, ← Finset.sum_sub_distrib, ← sub_mul]
  exact abs_sum_mul_le hxy fun _ => Real.abs_cos_le_one _

theorem abs_reference_dst2_sub_le : |Reference.dst2 n x k - Reference.dst2 n y k| ≤ n * e := by
  simp only [Reference.dst2, ← Finset.sum_sub_distrib, ← sub_mul]
  exact abs_sum_mul_le hxy fun _ => Real.abs_sin_le_one _

end

/-- The subband `k` of a slot that takes `nb` bands (R232). -/
noncomputable def band (x : Vector Word 64) (nb k : Nat) : ℝ := if k < nb then real (entry x k) else 0

/-- The operands that a slot takes have magnitude at most `2^26`. -/
def SmallBands (x : Vector Word 64) (nb : Nat) : Prop := ∀ k, k < nb → atMost (2 ^ 26) (entry x k)

section

variable (x : Vector Word 64) (nb k : Nat)

/-- A scaled subband is rounded once (R123, R234, R238). -/
theorem abs_scaled_sub_le {s : Nat} (hs : 1 ≤ s) :
    |real (if k < nb then rshr (entry x k) s else 0#32) - band x nb k / 2 ^ s| ≤ 1 / 2 := by
  rw [band]
  split_ifs
  · rw [real, toInt_rshr _ hs]
    exact abs_roundShift_sub_le _ hs
  · rw [real_zero, zero_div, sub_zero, abs_zero]
    norm_num

variable {x nb}

/-- A scaled subband is a sample that the engines take. -/
theorem SmallBands.abs_scaled_le (hx : SmallBands x nb) {s : Nat} (hs : s = 5 ∨ s = 6) :
    |real (if k < nb then rshr (entry x k) s else 0#32)| ≤ 2 ^ 21 := by
  split_ifs with hk
  · have hsmall : atMost (2 ^ 21) (rshr (entry x k) s) := by
      obtain ⟨hlo, hhi⟩ := hx k hk
      have hnear := roundShift_nearest (entry x k).toInt (s := s) (by omega)
      rw [atMost, toInt_rshr _ (by omega)]
      obtain rfl | rfl := hs <;> omega
    exact (abs_real_le hsmall).trans_eq (by norm_num)
  · rw [real_zero, abs_zero]
    norm_num

end

/-- The block of a high-quality slot, first half: the angles are an odd number of half turns back (R232). -/
theorem synthesisHq_front (a b : Nat → ℝ) (n : Nat) : Reference.synthesisHq a b n =
    Reference.dst4 64 (fun k => b k / 64) n - Reference.dct4 64 (fun k => a k / 64) n := by
  rw [Reference.synthesisHq, Reference.dst4, Reference.dct4, ← Finset.sum_sub_distrib]
  refine Finset.sum_congr rfl fun k _ => ?_
  have hangle : Real.pi / 128 * (k + 1 / 2) * (2 * n - 255) =
      -((2 * k + 1) * Real.pi - Real.pi / (64 : Nat) * (k + 1 / 2) * (n + 1 / 2)) := by
    push_cast
    ring
  rw [hangle, Real.cos_neg, Real.sin_neg, cos_odd_half_turns_sub, sin_odd_half_turns_sub]
  ring

/-- The second half of the block, from its end (R232). -/
theorem synthesisHq_back (a b : Nat → ℝ) {n : Nat} (hn : n < 64) : Reference.synthesisHq a b (127 - n) =
    Reference.dst4 64 (fun k => b k / 64) n + Reference.dct4 64 (fun k => a k / 64) n := by
  have hcast : ((127 - n : Nat) : ℝ) = 127 - n := by rw [Nat.cast_sub (by omega)]; rfl
  rw [Reference.synthesisHq, Reference.dst4, Reference.dct4, ← Finset.sum_add_distrib]
  refine Finset.sum_congr rfl fun k _ => ?_
  have hangle : Real.pi / 128 * (k + 1 / 2) * (2 * (127 - n) - 255) =
      -(Real.pi / (64 : Nat) * (k + 1 / 2) * (n + 1 / 2)) := by
    push_cast
    ring
  rw [hcast, hangle, Real.cos_neg, Real.sin_neg]
  ring

/-- The block of a low-power slot: `DCT2` of the scaled subbands from index 32 on (R232). -/
theorem synthesisLp_middle (a : Nat → ℝ) (n : Nat) :
    Reference.synthesisLp a (32 + n) = Reference.dct2 64 (fun k => a k / 32) n := by
  refine Finset.sum_congr rfl fun k _ => ?_
  congr 2
  push_cast
  ring

/-- The block below index 32 is its mirror image (R232). -/
theorem synthesisLp_front (a : Nat → ℝ) {n : Nat} (hn : n < 32) :
    Reference.synthesisLp a (31 - n) = Reference.dct2 64 (fun k => a k / 32) (n + 1) := by
  have hcast : ((31 - n : Nat) : ℝ) = 31 - n := by rw [Nat.cast_sub (by omega)]; rfl
  refine Finset.sum_congr rfl fun k _ => ?_
  rw [hcast, ← Real.cos_neg]
  congr 2
  push_cast
  ring

/-- The block from index 96 on: an odd number of quarter turns makes the cosines sines (R232). -/
theorem synthesisLp_sines (a : Nat → ℝ) (n : Nat) : Reference.synthesisLp a (96 + n) =
    ∑ k ∈ Finset.range 64, -(-1) ^ k * (a k / 32) * Real.sin (Real.pi / 64 * (k + 1 / 2) * n) := by
  refine Finset.sum_congr rfl fun k _ => ?_
  have hangle : Real.pi / 64 * (k + 1 / 2) * ((96 + n : Nat) - 32) =
      Real.pi * (k + 1 / 2) - -(Real.pi / 64 * (k + 1 / 2) * n) := by
    push_cast
    ring
  rw [hangle, cos_odd_quarter_turns_sub, Real.sin_neg]
  ring

theorem synthesisLp_ninetySix (a : Nat → ℝ) : Reference.synthesisLp a 96 = 0 := by
  rw [synthesisLp_sines a 0]
  exact Finset.sum_eq_zero fun k _ => by simp

/-- The block above index 96 is `DST2` of the scaled subbands with alternating signs (R232, R238). -/
theorem synthesisLp_back (a : Nat → ℝ) {n : Nat} (hn : 1 ≤ n) : Reference.synthesisLp a (96 + n) =
    Reference.dst2 64 (fun k => -(-1) ^ k * (a k / 32)) (n - 1) := by
  have hcast : ((n - 1 : Nat) : ℝ) = n - 1 := by rw [Nat.cast_sub hn]; simp
  rw [synthesisLp_sines, Reference.dst2, hcast, sub_add_cancel]
  rfl

section

variable {re im : Vector Word 64} {nb : Nat}

/-- The `DCT4` of the scaled real parts: 64 roundings of 1/2 before the engine, and its own error (R234). -/
theorem hqX1_near (hre : SmallBands re nb) {n : Nat} (hn : n < 64) :
    |real (wordAt (dct4 .n64 (hqX1 re nb)).val n) - Reference.dct4 64 (fun k => band re nb k / 64) n| ≤ 160 := by
  have hsmall : SmallSamples .n64 (hqX1 re nb) := fun i hi => by
    rw [wordAt_hqX1 re nb hi]
    exact hre.abs_scaled_le i (.inr rfl)
  have hinput : ∀ i, i < 64 → |real (wordAt (hqX1 re nb) i) - band re nb i / 64| ≤ 1 / 2 := fun i hi => by
    rw [wordAt_hqX1 re nb hi, show (64 : ℝ) = 2 ^ 6 by norm_num]
    exact abs_scaled_sub_le re nb i (by decide)
  refine (abs_sub_le _ _ _).trans ((add_le_add (dct4_near hsmall hn) (abs_reference_dct4_sub_le hinput n)).trans_eq ?_)
  norm_num [Size.points]

/-- The `DCT4` of the scaled imaginary parts in reversed order is a `DST4`, with alternating signs (R234, R235). -/
theorem hqX2_near (him : SmallBands im nb) {n : Nat} (hn : n < 64) :
    |real (wordAt (dct4 .n64 (hqX2 im nb)).val n) - (-1) ^ n * Reference.dst4 64 (fun k => band im nb k / 64) n| ≤
      160 := by
  have hentry : ∀ i, i < 64 → wordAt (hqX2 im nb) i =
      if 63 - i < nb then rshr (entry im (63 - i)) 6 else 0#32 := fun i hi => by
    rw [← wordAt_hqX2_reversed im nb (show 63 - i < 64 by omega), show 63 - (63 - i) = i by omega]
  have hsmall : SmallSamples .n64 (hqX2 im nb) := fun i hi => by
    rw [hentry i hi]
    exact him.abs_scaled_le (63 - i) (.inr rfl)
  have hinput : ∀ i, i < 64 → |real (wordAt (hqX2 im nb) i) - band im nb (64 - 1 - i) / 64| ≤ 1 / 2 := fun i hi => by
    rw [hentry i hi, show (64 : ℝ) = 2 ^ 6 by norm_num]
    exact abs_scaled_sub_le im nb (63 - i) (by decide)
  rw [← dct4_of_reversed (by decide)]
  refine (abs_sub_le _ _ _).trans ((add_le_add (dct4_near hsmall hn) (abs_reference_dct4_sub_le hinput n)).trans_eq ?_)
  norm_num [Size.points]

end

section

variable {re im : Vector Word 64} {nb : Nat}

theorem SmallBands.abs_band_le (hre : SmallBands re nb) (k : Nat) : |band re nb k| ≤ 2 ^ 26 := by
  rw [band]
  split_ifs with hk
  · exact (abs_real_le (hre k hk)).trans_eq (by norm_num)
  · rw [abs_zero]
    positivity

/-- The reference block of a low-power slot stays in range (R232). -/
theorem abs_synthesisLp_le (hre : SmallBands re nb) (n : Nat) : |Reference.synthesisLp (band re nb) n| ≤ 2 ^ 27 := by
  have hscaled : ∀ k, k < 64 → |band re nb k / 32| ≤ 2 ^ 21 := fun k _ => by
    rw [abs_div, abs_of_pos (by norm_num : (0 : ℝ) < 32)]
    linarith [hre.abs_band_le k]
  refine (abs_sum_mul_le hscaled fun _ => Real.abs_cos_le_one _).trans_eq ?_
  norm_num

/-- The reference block of a high-quality slot stays in range (R232). -/
theorem abs_synthesisHq_le (hre : SmallBands re nb) (him : SmallBands im nb) (n : Nat) :
    |Reference.synthesisHq (band re nb) (band im nb) n| ≤ 2 ^ 27 := by
  have hscaled : ∀ {x : Vector Word 64}, SmallBands x nb → ∀ k, k < 64 → |band x nb k / 64| ≤ 2 ^ 20 :=
    fun hx k _ => by
      rw [abs_div, abs_of_pos (by norm_num : (0 : ℝ) < 64)]
      linarith [hx.abs_band_le k]
  have hcos := abs_sum_mul_le (hscaled hre) fun k => Real.abs_cos_le_one (Real.pi / 128 * (k + 1 / 2) * (2 * n - 255))
  have hsin := abs_sum_mul_le (hscaled him) fun k => Real.abs_sin_le_one (Real.pi / 128 * (k + 1 / 2) * (2 * n - 255))
  rw [Reference.synthesisHq, Finset.sum_sub_distrib]
  refine (abs_sub _ _).trans ((add_le_add hcos hsin).trans_eq ?_)
  norm_num

end

/-- `WR` of an exact value near one in range (R121). -/
theorem real_wr_near {v : Int} {D e : ℝ} (h : |(v : ℝ) - D| ≤ e) (hrange : |D| + e < 2 ^ 31) :
    |real (wr v).val - D| ≤ e := by
  have hv : |(v : ℝ)| ≤ |D| + e := by linarith [abs_sub_abs_le_abs_sub (v : ℝ) D]
  rwa [real_wr (hv.trans_lt hrange)]

/-- A sign that alternates, on a word. -/
theorem cast_alternated (w : Word) (n : Nat) :
    ((if n % 2 = 0 then w.toInt else -w.toInt : Int) : ℝ) = (-1) ^ n * real w := by
  split_ifs with heven
  · rw [(Nat.even_iff.2 heven).neg_one_pow, one_mul]
    rfl
  · rw [(Nat.odd_iff.2 (by omega)).neg_one_pow, neg_one_mul, Int.cast_neg]
    rfl

section

variable {re im : Vector Word 64} {nb : Nat} (hre : SmallBands re nb)

include hre

/-- The block of a high-quality slot is the reference block within 512 units (R232, R235). -/
theorem hqCombine_near (him : SmallBands im nb) {i : Nat} (hi : i < 128) :
    |real (wordAt (hqCombine (dct4 .n64 (hqX1 re nb)).val (dct4 .n64 (hqX2 im nb)).val).val i) -
      Reference.synthesisHq (band re nb) (band im nb) i| ≤ 512 := by
  rw [wordAt_hqCombine _ _ hi]
  refine real_wr_near ?_ (by linarith [abs_synthesisHq_le hre him i])
  have hodd : ∀ n, n < 64 →
      |(-1) ^ n * real (wordAt (dct4 .n64 (hqX2 im nb)).val n) - Reference.dst4 64 (fun k => band im nb k / 64) n| ≤
        160 := fun n hn => by
    rw [abs_alternated_sub]
    exact hqX2_near him hn
  obtain hfront | ⟨n, hn, rfl⟩ : i < 64 ∨ ∃ n, n < 64 ∧ i = 127 - n := by
    by_cases hfront : i < 64
    · exact .inl hfront
    · exact .inr ⟨127 - i, by omega, by omega⟩
  · rw [hqCombineSum_front _ _ hfront, synthesisHq_front, Int.cast_sub, cast_alternated, sub_sub_sub_comm]
    exact (abs_sub _ _).trans ((add_le_add (hodd i hfront) (hqX1_near hre hfront)).trans (by norm_num))
  · rw [hqCombineSum_back _ _ hn, synthesisHq_back _ _ hn, Int.cast_add, cast_alternated, add_sub_add_comm]
    exact (abs_add_le _ _).trans ((add_le_add (hodd n hn) (hqX1_near hre hn)).trans (by norm_num))

/-- The scaled subbands of a low-power slot, entry by entry (R238). -/
theorem lpX_near {i : Nat} (hi : i < 64) :
    |real (wordAt (lpX re nb) i)| ≤ 2 ^ 21 ∧ |real (wordAt (lpX re nb) i) - band re nb i / 32| ≤ 1 / 2 := by
  rw [wordAt_lpX re nb hi, show (32 : ℝ) = 2 ^ 5 by norm_num]
  exact ⟨hre.abs_scaled_le i (.inl rfl), abs_scaled_sub_le re nb i (by decide)⟩

/-- The sequence `yy` is `x` with the signs of the even entries changed (R238). -/
theorem real_lpYy {i : Nat} (hi : i < 64) :
    real (wordAt (lpYy (lpX re nb)).val i) = -(-1) ^ i * real (wordAt (lpX re nb) i) := by
  rw [wordAt_lpYy _ hi]
  split_ifs with heven
  · rw [(Nat.even_iff.2 heven).neg_one_pow, neg_one_mul, real_wr_neg ((lpX_near hre hi).1.trans_lt (by norm_num))]
  · rw [(Nat.odd_iff.2 (by omega)).neg_one_pow, neg_neg, one_mul]

/-- The `DCT2` of a low-power slot (R238, R239). -/
theorem dct2_lpX_near {n : Nat} (hn : n < 64) :
    |real (wordAt (dct2 .n64 (lpX re nb)).val n) - Reference.dct2 64 (fun k => band re nb k / 32) n| ≤ 512 := by
  have hsmall : SmallSamples .n64 (lpX re nb) := fun i hi => (lpX_near hre hi).1
  have hinput := abs_reference_dct2_sub_le (fun i hi => (lpX_near hre (i := i) hi).2) n
  refine (abs_sub_le _ _ _).trans ((add_le_add (dct2_near hsmall hn) hinput).trans ?_)
  norm_num [Size.points]

/-- The `DST2` of a low-power slot (R238, R239). -/
theorem dst2_lpYy_near {n : Nat} (hn : n < 64) :
    |real (wordAt (dst2 .n64 (lpYy (lpX re nb)).val).val n) -
      Reference.dst2 64 (fun k => -(-1) ^ k * (band re nb k / 32)) n| ≤ 512 := by
  have hsign : ∀ i : Nat, |-(-1 : ℝ) ^ i| = 1 := fun i => by rw [abs_neg, abs_neg_one_pow]
  have hsmall : SmallSamples .n64 (lpYy (lpX re nb)).val := fun i hi => by
    rw [real_lpYy hre hi, abs_mul, hsign, one_mul]
    exact (lpX_near hre hi).1
  have hinput : ∀ i, i < 64 →
      |real (wordAt (lpYy (lpX re nb)).val i) - -(-1) ^ i * (band re nb i / 32)| ≤ 1 / 2 := fun i hi => by
    rw [real_lpYy hre hi, ← mul_sub, abs_mul, hsign, one_mul]
    exact (lpX_near hre hi).2
  refine (abs_sub_le _ _ _).trans ((add_le_add (dst2_near hsmall hn) (abs_reference_dst2_sub_le hinput n)).trans ?_)
  norm_num [Size.points]

/-- The block of a low-power slot is the reference block within 512 units (R232, R239). -/
theorem lpScatter_near {i : Nat} (hi : i < 128) :
    |real (wordAt (lpScatter (dct2 .n64 (lpX re nb)).val (dst2 .n64 (lpYy (lpX re nb)).val).val) i) -
      Reference.synthesisLp (band re nb) i| ≤ 512 := by
  obtain ⟨n, hn, rfl⟩ | ⟨n, hn, rfl⟩ | rfl | ⟨n, hlo, hhi, rfl⟩ :
      (∃ n, n < 32 ∧ i = 31 - n) ∨ (∃ n, n < 64 ∧ i = 32 + n) ∨ i = 96 ∨ ∃ n, 1 ≤ n ∧ n ≤ 31 ∧ i = 96 + n := by
    obtain hfront | hmiddle | h96 | hback : i < 32 ∨ (32 ≤ i ∧ i < 96) ∨ i = 96 ∨ 97 ≤ i := by omega
    · exact .inl ⟨31 - i, by omega, by omega⟩
    · exact .inr (.inl ⟨i - 32, by omega, by omega⟩)
    · exact .inr (.inr (.inl h96))
    · exact .inr (.inr (.inr ⟨i - 96, by omega, by omega, by omega⟩))
  · rw [wordAt_lpScatter_front _ _ hn, synthesisLp_front _ hn]
    exact dct2_lpX_near hre (by omega)
  · rw [wordAt_lpScatter_middle _ _ hn, synthesisLp_middle]
    exact dct2_lpX_near hre hn
  · have hzero : wordAt (lpScatter (dct2 .n64 (lpX re nb)).val (dst2 .n64 (lpYy (lpX re nb)).val).val) 96 = 0#32 := rfl
    rw [hzero, real_zero, synthesisLp_ninetySix, sub_zero, abs_zero]
    norm_num
  · rw [wordAt_lpScatter_back _ _ hlo hhi, synthesisLp_back _ hlo]
    exact dst2_lpYy_near hre (by omega)

end

/-- Settles O56, mode by mode. -/
theorem synthesisBlockMatchesTheReference : Obligations.SynthesisBlockMatchesTheReference := by
  intro re im nb hnb hbound a b n hn
  have hre : SmallBands re nb := fun k hk => (hbound k (by omega)).1
  have him : SmallBands im nb := fun k hk => (hbound k (by omega)).2
  exact ⟨hqCombine_near hre him hn, lpScatter_near hre hn⟩

end Sys2Proof.Machine

/-! The synthesis slot against the reference slot (R231, R232, R245): the history of a context follows the reference
history, a slot moves both by one block, and each sample weighs ten words of the history. -/

namespace Sys2Proof.Machine

open Sys2Proof.Stating

/-- The other one of the other one of the two regions (R236). -/
theorem one_sub_one_sub (a : Fin 2) : 1 - (1 - a) = a := by
  revert a
  decide

section

variable {y : SynCtx} {W : Nat → ℝ} {e : ℝ}

theorem followsReference_of_lp (hmode : y.mode = .lp) :
    followsReference y W e ↔ ∀ i, i < 1280 → |real (entry y.hist i) - W i| ≤ e := by
  simp only [followsReference, hmode]

theorem followsReference_of_hq (hmode : y.mode = .hq) : followsReference y W e ↔
    ∀ j k, j < 5 → k < 64 →
      |real (entry y.hist (640 * (1 - y.vidx).val + (128 * j + k))) - W (256 * j + k)| ≤ e ∧
      |real (entry y.hist (640 * (1 - y.vidx).val + (128 * j + 64 + k))) - W (256 * j + 192 + k)| ≤ e ∧
      |real (entry y.hist (640 * y.vidx.val + (128 * j + k))) - W (256 * j + 64 + k)| ≤ e ∧
      |real (entry y.hist (640 * y.vidx.val + (128 * j + 64 + k))) - W (256 * j + 128 + k)| ≤ e := by
  simp only [followsReference, hmode]

end

/-- After `SINIT` every word of the history is 0, as in the reference (R231, R232). -/
theorem followsReference_synInit (m : Mode) : followsReference (synInit m) Reference.synthesisStart 0 := by
  have hzero : ∀ i j, |real (entry (synInit m).hist i) - Reference.synthesisStart j| ≤ 0 := fun i j => by
    rw [synInit, entry_tabulate, ite_self, real_zero, Reference.synthesisStart_apply, sub_zero, abs_zero]
  cases m with
  | lp => exact (followsReference_of_lp rfl).2 fun i _ => hzero i i
  | hq => exact (followsReference_of_hq rfl).2 fun j k _ _ => ⟨hzero _ _, hzero _ _, hzero _ _, hzero _ _⟩

section

variable {y : SynCtx} {W block : Nat → ℝ} {e : ℝ} (hfollows : followsReference y W e) {v : List Word}
  (hv : ∀ i, i < 128 → |real (wordAt v i) - block i| ≤ e)

include hfollows hv

/-- A low-power slot moves the history up by 128 words, as the reference (R232, R240). -/
theorem followsReference_lpHistory (hmode : y.mode = .lp) (a : Fin 2) :
    followsReference { y with hist := lpHistory y.hist v, vidx := a } (Reference.synthesisHistory W block) e := by
  rw [followsReference_of_lp hmode] at hfollows
  refine (followsReference_of_lp (y := { y with hist := lpHistory y.hist v, vidx := a }) hmode).2 fun i hi => ?_
  dsimp only
  obtain hfront | ⟨i, rfl⟩ : i < 128 ∨ ∃ n, i = n + 128 := by
    by_cases hfront : i < 128
    · exact .inl hfront
    · exact .inr ⟨i - 128, by omega⟩
  · rw [entry_lpHistory_front _ _ hfront, Reference.synthesisHistory_of_lt W block hfront]
    exact hv i hfront
  · rw [entry_lpHistory_of_le _ _ (by omega) hi, Nat.add_sub_cancel, Reference.synthesisHistory_add]
    exact hfollows i (by omega)

/-- A high-quality slot moves both regions up by 64 words and exchanges them: the region that the slot computes from
takes the first half of the block, and the reference moves up by 128 entries (R232, R236, R245). -/
theorem followsReference_hqHistory (hmode : y.mode = .hq) :
    followsReference { y with hist := hqHistory y.hist y.vidx v, vidx := 1 - y.vidx }
      (Reference.synthesisHistory W block) e := by
  rw [followsReference_of_hq hmode] at hfollows
  have hother : (1 - y.vidx).val ≠ y.vidx.val := by
    rw [val_other_region]
    omega
  have htwice := one_sub_one_sub y.vidx
  have hmoved : ∀ {r i n m : Nat}, r < 2 → 64 + i < 640 → |real (entry y.hist (640 * r + i)) - W n| ≤ e →
      n + 128 = m →
      |real (entry (hqHistory y.hist y.vidx v) (640 * r + (64 + i))) - Reference.synthesisHistory W block m| ≤ e := by
    intro r i n m hr hi hold hm
    rw [entry_hqHistory_add _ _ _ hr hi, ← hm, Reference.synthesisHistory_add]
    exact hold
  have hnew : ∀ {r i : Nat}, r < 2 → i < 64 →
      |real (entry (hqHistory y.hist y.vidx v) (640 * r + i)) -
        Reference.synthesisHistory W block (if r = y.vidx.val then i else 64 + i)| ≤ e := by
    intro r i hr hi
    have hlt : (if r = y.vidx.val then i else 64 + i) < 128 := by split_ifs <;> omega
    rw [entry_hqHistory_front _ _ _ hr hi, Reference.synthesisHistory_of_lt W block hlt]
    exact hv _ hlt
  refine (followsReference_of_hq (y := { y with hist := hqHistory y.hist y.vidx v, vidx := 1 - y.vidx }) hmode).2
    fun j k hj hk => ?_
  have hlt := y.vidx.isLt
  have hlt' := (1 - y.vidx).isLt
  dsimp only
  rw [htwice]
  obtain ⟨hlatest, hlatest', hnext, hnext'⟩ := hfollows j k hj hk
  have hup : 128 * j + 64 + k = 64 + (128 * j + k) := by omega
  rw [hup]
  refine ⟨?_, hmoved hlt (by omega) hnext (by omega), ?_, hmoved hlt' (by omega) hlatest (by omega)⟩
  · cases j with
    | zero => simpa using hnew hlt hk
    | succ j =>
      obtain ⟨-, -, -, hold⟩ := hfollows j k (by omega) hk
      have hup' : 128 * (j + 1) + k = 64 + (128 * j + 64 + k) := by omega
      rw [hup']
      exact hmoved hlt (by omega) hold (by omega)
  · cases j with
    | zero => simpa [hother] using hnew hlt' hk
    | succ j =>
      obtain ⟨-, hold, -, -⟩ := hfollows j k (by omega) hk
      have hup' : 128 * (j + 1) + k = 64 + (128 * j + 64 + k) := by omega
      rw [hup']
      exact hmoved hlt' (by omega) hold (by omega)

end

/-- A history of the reference stays in range with its block (R232). -/
theorem abs_synthesisHistory_le {W block : Nat → ℝ} {B : ℝ} (hW : ∀ i, i < 1280 → |W i| ≤ B)
    (hblock : ∀ i, i < 128 → |block i| ≤ B) :
    ∀ i, i < 1280 → |Reference.synthesisHistory W block i| ≤ B := by
  intro i hi
  rw [Reference.synthesisHistory]
  split_ifs with hfront
  · exact hblock i hfront
  · exact hW _ (by omega)

section

variable {proto : Vector Word 640} (hproto : ∀ i, i < 640 → atMost (2 ^ 30) (entry proto i)) {W : Nat → ℝ}
  (hW : ∀ i, i < 1280 → |W i| ≤ 2 ^ 27)

include hproto hW

/-- A sample from ten words that are within 512 units of the ten entries that R232 weighs: one rounding, and the weights
of the ten distances (R237, R241). -/
theorem sample_near {S : Int} {k : Nat} (hk : k < 64) {A B : Nat → Word}
    (hA : ∀ j, j < 5 → |real (A j) - W (256 * j + k)| ≤ 512)
    (hB : ∀ j, j < 5 → |real (B j) - W (256 * j + 192 + k)| ≤ 512)
    (hS : S = ∑ j ∈ Finset.range 5,
      ((A j).toInt * (entry proto (128 * j + k)).toInt + (B j).toInt * (entry proto (128 * j + 64 + k)).toInt)) :
    |real (rnd S coefBits).val - Reference.synthesisOut (fun i => real (entry proto i)) W k| ≤
      1 / 2 + 512 * (∑ j ∈ Finset.range 10, |real (entry proto (64 * j + k))|) / 2 ^ 30 := by
  have hP : ∀ i, i < 640 → |real (entry proto i)| ≤ 2 ^ 30 := fun i hi =>
    (abs_real_le (hproto i hi)).trans_eq (by norm_num)
  have hcast : (S : ℝ) = ∑ j ∈ Finset.range 5,
      (real (A j) * real (entry proto (128 * j + k)) + real (B j) * real (entry proto (128 * j + 64 + k))) := by
    rw [hS]
    push_cast
    rfl
  have hpair : ∑ j ∈ Finset.range 10, |real (entry proto (64 * j + k))| =
      ∑ j ∈ Finset.range 5, (|real (entry proto (128 * j + k))| + |real (entry proto (128 * j + 64 + k))|) := by
    rw [show (10 : Nat) = 2 * 5 from rfl, sum_even_odd]
    refine Finset.sum_congr rfl fun j _ => ?_
    rw [show 64 * (2 * j) + k = 128 * j + k by omega, show 64 * (2 * j + 1) + k = 128 * j + 64 + k by omega]
  have hdistance : |(S : ℝ) / 2 ^ 30 - Reference.synthesisOut (fun i => real (entry proto i)) W k| ≤
      512 * (∑ j ∈ Finset.range 10, |real (entry proto (64 * j + k))|) / 2 ^ 30 := by
    rw [Reference.synthesisOut, ← sub_div, abs_div, abs_of_pos (by norm_num : (0 : ℝ) < 2 ^ 30), hcast, hpair,
      ← Finset.sum_sub_distrib, Finset.mul_sum]
    refine div_le_div_of_nonneg_right ((Finset.abs_sum_le_sum_abs _ _).trans (Finset.sum_le_sum fun j hj => ?_))
      (by norm_num)
    have hlt := Finset.mem_range.1 hj
    rw [add_sub_add_comm, ← sub_mul, ← sub_mul, mul_add]
    refine (abs_add_le _ _).trans (add_le_add ?_ ?_)
    · rw [abs_mul]
      exact mul_le_mul_of_nonneg_right (hA j hlt) (abs_nonneg _)
    · rw [abs_mul]
      exact mul_le_mul_of_nonneg_right (hB j hlt) (abs_nonneg _)
  have hrange : |(S : ℝ) / 2 ^ 30| ≤ 3 * 2 ^ 29 + 2 := by
    have hword : ∀ {w : Word} {i j : Nat}, i < 1280 → j < 640 → |real w - W i| ≤ 512 →
        |real w * real (entry proto j)| ≤ (2 ^ 27 + 512) * 2 ^ 30 := by
      intro w i j hi hj hw
      have hlarge : |real w| ≤ 2 ^ 27 + 512 := by linarith [abs_sub_abs_le_abs_sub (real w) (W i), hW i hi]
      rw [abs_mul]
      exact mul_le_mul hlarge (hP j hj) (abs_nonneg _) (by norm_num)
    have hterm : ∀ j ∈ Finset.range 5,
        |real (A j) * real (entry proto (128 * j + k)) + real (B j) * real (entry proto (128 * j + 64 + k))| ≤
          (2 ^ 27 + 512) * 2 ^ 31 := fun j hj => by
      have hlt := Finset.mem_range.1 hj
      refine (abs_add_le _ _).trans ?_
      linarith [hword (by omega) (by omega) (hA j hlt) (j := 128 * j + k),
        hword (by omega) (by omega) (hB j hlt) (j := 128 * j + 64 + k)]
    have hsum := (Finset.abs_sum_le_sum_abs _ _).trans (Finset.sum_le_sum hterm)
    rw [← hcast, Finset.sum_const, Finset.card_range, nsmul_eq_mul] at hsum
    rw [abs_div, abs_of_pos (by norm_num : (0 : ℝ) < 2 ^ 30), div_le_iff₀ (by norm_num)]
    exact hsum.trans (by norm_num)
  exact abs_rnd_sub_le hrange hdistance

end

/-- The high-quality samples of a context that follows the reference: its latest region holds the ten words (R237). -/
theorem hqOutput_near {y : SynCtx} {W : Nat → ℝ} (hfollows : followsReference y W 512) (hmode : y.mode = .hq)
    (hW : ∀ i, i < 1280 → |W i| ≤ 2 ^ 27) {proto : Vector Word 640}
    (hproto : ∀ i, i < 640 → atMost (2 ^ 30) (entry proto i)) {a : Fin 2} (ha : 1 - y.vidx = a) {k : Nat}
    (hk : k < 64) :
    |real (wordAt (hqOutput proto y.hist a).val k) - Reference.synthesisOut (fun i => real (entry proto i)) W k| ≤
      1 / 2 + 512 * (∑ j ∈ Finset.range 10, |real (entry proto (64 * j + k))|) / 2 ^ 30 := by
  rw [followsReference_of_hq hmode, ha] at hfollows
  rw [wordAt_hqOutput _ _ _ hk]
  refine sample_near hproto hW hk (A := fun j => entry y.hist (640 * a.val + (128 * j + k)))
    (B := fun j => entry y.hist (640 * a.val + (128 * j + 64 + k)))
    (fun j hj => ?_) (fun j hj => ?_) ?_
  · obtain ⟨hlatest, -⟩ := hfollows j k hj hk
    exact hlatest
  · obtain ⟨-, hlatest, -⟩ := hfollows j k hj hk
    exact hlatest
  · rw [hqOutputSum, show (10 : Nat) = 2 * 5 from rfl, sum_even_odd]
    refine Finset.sum_congr rfl fun j _ => ?_
    rw [show 64 * (2 * j) + k = 128 * j + k by omega, show 64 * (2 * j + 1) + k = 128 * j + 64 + k by omega]

/-- The low-power samples of a context that follows the reference (R241). -/
theorem lpOutput_near {y : SynCtx} {W : Nat → ℝ} (hfollows : followsReference y W 512) (hmode : y.mode = .lp)
    (hW : ∀ i, i < 1280 → |W i| ≤ 2 ^ 27) {proto : Vector Word 640}
    (hproto : ∀ i, i < 640 → atMost (2 ^ 30) (entry proto i)) {k : Nat} (hk : k < 64) :
    |real (wordAt (lpOutput proto y.hist).val k) - Reference.synthesisOut (fun i => real (entry proto i)) W k| ≤
      1 / 2 + 512 * (∑ j ∈ Finset.range 10, |real (entry proto (64 * j + k))|) / 2 ^ 30 := by
  rw [followsReference_of_lp hmode] at hfollows
  rw [wordAt_lpOutput _ _ hk]
  exact sample_near hproto hW hk (fun j hj => hfollows _ (by omega)) (fun j hj => hfollows _ (by omega)) rfl

/-- A slot with `nb` bands on the context `y`, for a reference history `W` after it: the new context follows `W`, which
stays in range, and the samples are near those of the reference (R232). -/
def SlotFollows (s : State) (nb : Nat) (y : SynCtx) (W : Nat → ℝ) : Prop :=
  followsReference { y with hist := (synthesisResult s nb y).hist, vidx := nextVidx y } W 512 ∧
  (∀ i, i < 1280 → |W i| ≤ 2 ^ 27) ∧
  ∀ k, k < 64 →
    |real (wordAt (synthesisResult s nb y).out k) - Reference.synthesisOut (fun i => real (entry s.proto i)) W k| ≤
      1 / 2 + 512 * (∑ j ∈ Finset.range 10, |real (entry s.proto (64 * j + k))|) / 2 ^ 30

section

variable {s : State} {y : SynCtx} {nb : Nat} {W : Nat → ℝ}
  (hproto : ∀ i, i < 640 → atMost (2 ^ 30) (entry s.proto i)) (hre : SmallBands s.xre nb)
  (hfollows : followsReference y W 512) (hW : ∀ i, i < 1280 → |W i| ≤ 2 ^ 27)

include hproto hre hfollows hW

theorem slotFollows_of_hq (hmode : y.mode = .hq) (him : SmallBands s.xim nb) :
    SlotFollows s nb y (Reference.synthesisHistory W (Reference.synthesisHq (band s.xre nb) (band s.xim nb))) := by
  have hrange := abs_synthesisHistory_le hW fun i _ => abs_synthesisHq_le hre him i
  have hnew := followsReference_hqHistory hfollows (fun i hi => hqCombine_near hre him hi) hmode
  rw [SlotFollows, synthesisResult_of_hq nb hmode, nextVidx_of_hq hmode]
  exact ⟨hnew, hrange, fun k hk => hqOutput_near hnew hmode hrange hproto (one_sub_one_sub y.vidx) hk⟩

theorem slotFollows_of_lp (hmode : y.mode = .lp) :
    SlotFollows s nb y (Reference.synthesisHistory W (Reference.synthesisLp (band s.xre nb))) := by
  have hrange := abs_synthesisHistory_le hW fun i _ => abs_synthesisLp_le hre i
  have hnew := followsReference_lpHistory hfollows (fun i hi => lpScatter_near hre hi) hmode y.vidx
  rw [SlotFollows, synthesisResult_of_lp nb hmode, nextVidx_of_lp hmode]
  exact ⟨hnew, hrange, fun k hk => lpOutput_near hnew hmode hrange hproto hk⟩

/-- A slot follows the reference in both modes; low-power slots do not read `XIM` (R238). -/
theorem slotFollows_synthesisBlock (him : y.mode = .hq → SmallBands s.xim nb) :
    SlotFollows s nb y
      (Reference.synthesisHistory W (Reference.synthesisBlock y.mode (band s.xre nb) (band s.xim nb))) := by
  cases hmode : y.mode with
  | hq => exact slotFollows_of_hq hproto hre hfollows hW hmode (him hmode)
  | lp => exact slotFollows_of_lp hproto hre hfollows hW hmode

end

/-- Settles O59: `SINIT` starts both histories at 0, and each slot moves both by one block, whose words are near. -/
theorem synthesisSlotsMatchTheReference : Obligations.SynthesisSlotsMatchTheReference := by
  refine ⟨fun s c m hc => ?_, fun s c nb ch W hch hvalid hnb hproto hbound hfollows hW => ?_⟩
  · have hch : s.channels[c.toNat]? = some (s.channels[c.toNat]'hc) := List.getElem?_eq_getElem hc
    exact ⟨_, synInit m, onChannel_of_getElem? hch, State.setSyn_map_syn_self hch _, rfl, rfl,
      followsReference_synInit m⟩
  · have hre : SmallBands s.xre nb.toNat := fun k hk => (hbound k hk).1
    have him : ch.syn.mode = .hq → SmallBands s.xim nb.toNat := fun hmode k hk => (hbound k hk).2 hmode
    obtain ⟨hnew, hrange, hout⟩ := slotFollows_synthesisBlock hproto hre hfollows hW him
    refine ⟨_, _, exec_qmfs_of_valid hch hvalid hnb, synthesisSlot_map_syn hch _ _, rfl, hvalid, hnew, hrange,
      fun k hk => ?_⟩
    rw [entry_synthesisSlot _ _ _ hk]
    exact hout k hk

end Sys2Proof.Machine
